-- ==== Sys2Proof/Word.lean ====
section
/-! DEFINITION. The two word sizes of the machine: a byte of the bus (R77) and a 16-bit address or program counter (R70, R25). -/

namespace Sys2Proof

/-- A byte: the width of a register, of a memory cell and of a bus transfer (R11, R77). -/
abbrev Byte := BitVec 8

/-- A word: the width of the program counter and of an address (R11, R25, R70). -/
abbrev Word := BitVec 16

end Sys2Proof
end

