-- ==== Sys2Proof/Machine/Bits.lean ====
section
/-! DEFINITION. Byte order, extension and slicing helpers (R11, R12, R72). -/

namespace Sys2Proof.Machine

/-- The word whose high byte is `hi` and low byte is `lo`: R11's concatenation, R72's little-endian pair. -/
def wordOf (hi lo : Byte) : Word := hi ++ lo

/-- `w[7:0]` (R11). -/
def loByte (w : Word) : Byte := w.extractLsb' 0 8

/-- `w[15:8]` (R11). -/
def hiByte (w : Word) : Byte := w.extractLsb' 8 8

/-- `zext_16(v)` (R12). -/
def zext16 (v : Byte) : Word := v.setWidth 16

/-- `sext_16(v)` (R12): a branch offset is a signed byte. -/
def sext16 (v : Byte) : Word := v.signExtend 16

/-- The bit `v[i]` of a byte (R11). -/
def bitOf (v : Byte) (i : Nat) : Bool := v.getLsbD i

/-- A byte with bit 0 equal to `b` and the other bits 0. -/
def bitByte (b : Bool) : Byte := if b then 1#8 else 0#8

/-- An address in page 1, the stack's page (R28). -/
def stackAddr (s : Byte) : Word := 0x0100#16 + zext16 s

end Sys2Proof.Machine
end

