-- ==== Sys2Proof/Config.lean ====
section
/-! DEFINITION. The parameters of R10: the configuration the machine holds, fixed at `init` (R32), and the
OPEN functions and draws no proof may see through (opaque constants). -/

namespace Sys2Proof

/-- The fixed RAM expansion sizes of R10 and R90; `auto` is resolved to one of them at `init` (R91). -/
inductive Expansion where
  | none | k3 | k8 | k16 | k24 | k32 | k35
  deriving DecidableEq, Repr, Inhabited

/-- The timing profile (R10, R401). -/
inductive Profile where
  | pal | ntsc
  deriving DecidableEq, Repr

/-- The program type of R10. -/
inductive ProgramType where
  | rawBinary | diskImage | snapshot | cartridge
  deriving DecidableEq, Repr

/-- The timing constants of R401 that one profile selects, and its clock rate (R485). All OPEN (D36, D40). -/
structure Timing where
  /-- `H`: cycles in a raster line. -/
  lineCycles : Nat
  vsShort1 : Nat
  vsLong : Nat
  vsShort2 : Nat
  firstVisible : Nat
  hvisFirst : Nat
  hvisLast : Nat
  leadSwallow : Nat
  trailSwallow : Nat
  clockHz : Nat
  deriving DecidableEq, Repr

/-- The sixteen stored registers of the video/audio chip (R402, R410), one field each. -/
structure VicRegs where
  r0 : Byte
  r1 : Byte
  r2 : Byte
  r3 : Byte
  r4 : Byte
  r5 : Byte
  r6 : Byte
  r7 : Byte
  r8 : Byte
  r9 : Byte
  rA : Byte
  rB : Byte
  rC : Byte
  rD : Byte
  rE : Byte
  rF : Byte
  deriving DecidableEq, Repr

/-- The configuration of the machine, fixed at `init` and never changed afterwards (R32). The OPEN parameters
of R10 that are plain data stand here, so a statement about every state is a statement about each of their values.
PAL has 312 lines (R401), so only the NTSC line count is a field. -/
structure Config where
  expansion : Expansion
  profile : Profile
  programType : ProgramType
  /-- The number of bytes of the cartridge image that `init` placed from `$A000` on (R90, D20; log entry 28). -/
  cartridgeSize : Nat
  /-- `latch_on_fetch` (R84, D25). -/
  latchOnFetch : Bool
  /-- `brk_hijack` (R309, D12). -/
  brkHijack : Bool
  pal : Timing
  ntsc : Timing
  ntscLines : Nat
  /-- The target sample rate: `sample_ratio` is `clockHz / sampleRate` (R444, R485). -/
  sampleRate : Nat
  /-- `voice_clock_unit` (R440). -/
  voiceClockUnit : Nat
  /-- `voice_weight[0..3]` (R444). -/
  weight0 : Int
  weight1 : Int
  weight2 : Int
  weight3 : Int
  /-- `vic_reset_values` (R450, D42). -/
  vicResetValues : VicRegs
  /-- `lfsr_reset` (R450, D42). -/
  lfsrReset : BitVec 16
  deriving DecidableEq, Repr

/-- DESIGN CHOICE (log entry 3): the fixed vector `vic_reset_values` of the configuration State.reset holds. -/
def VicRegs.zero : VicRegs :=
  ⟨0, 0, 0, 0, 0, 0, 0, 0, 0, 0, 0, 0, 0, 0, 0, 0⟩

/-- PRESUMED and DESIGN CHOICE (log entries 6 and 7): the configuration State.reset holds, an unexpanded PAL
machine with the default line widths and clock rates of R401 and R485. -/
def Config.atReset : Config where
  expansion := .none
  profile := .pal
  programType := .rawBinary
  cartridgeSize := 0
  latchOnFetch := false
  brkHijack := false
  pal := ⟨71, 3, 3, 3, 28, 12, 70, 0, 0, 1108000⟩
  ntsc := ⟨65, 3, 3, 3, 28, 9, 64, 0, 0, 1023000⟩
  ntscLines := 261
  sampleRate := 22050
  voiceClockUnit := 1
  weight0 := 1
  weight1 := 1
  weight2 := 1
  weight3 := 1
  vicResetValues := VicRegs.zero
  lfsrReset := 1#16

/-- The selected struct of timing constants: no transition logic depends on the profile otherwise (R401). -/
def Config.timing (c : Config) : Timing :=
  match c.profile with
  | .pal => c.pal
  | .ntsc => c.ntsc

/-- `V`, the lines of a frame: 312 for PAL (R10, R401), OPEN for NTSC. -/
def Config.lines (c : Config) : Nat :=
  match c.profile with
  | .pal => 312
  | .ntsc => c.ntscLines

/-- `noise_feedback` (R443): OPEN, a function of voice 3's shift register and the LFSR. Log entry 10. -/
opaque Config.noiseFeedback : BitVec 8 → BitVec 16 → Bool

/-- `auto_expansion_rule` (R91, D21): OPEN, from a program's load address to a size. Log entry 10. -/
opaque Config.autoExpansionRule : Nat → Expansion

/-- `palette` (R435, D40): OPEN, from a colour index to RGBA; the pixel sink's, never the chip's. Log entry 10. -/
opaque Config.palette : BitVec 4 → BitVec 32

/-- `draw(light_pen)` (R410, D44): the value a read of registers 6 and 7 gives in the clock of this number. Log entry 9. -/
opaque Config.lightPen : Nat → Byte

/-- `draw(paddle)` (R410, D44): the value a read of registers 8 and 9 gives in the clock of this number. Log entry 9. -/
opaque Config.paddle : Nat → Byte

/-- `draw(video_absent_read)` (R407, D27): what a video read of an absent cell gives in the clock of this number. Log entry 9. -/
opaque Config.videoAbsentRead : Nat → Byte

end Sys2Proof
end

