-- ==== Sys2Proof/Machine/State.lean ====
section
/-! DEFINITION. The state of the machine as plain data, what can end a step, and the state after reset. -/

namespace Sys2Proof.Machine

/-! ## Processor (10_state.md) -/

/-- The six stored status flags (R23). B is no flag: it exists only in a pushed byte (C12). -/
structure Flags where
  n : Bool
  v : Bool
  d : Bool
  i : Bool
  z : Bool
  c : Bool
  deriving DecidableEq, Repr

/-- The processor's registers (R20). -/
structure Regs where
  a : Byte
  x : Byte
  y : Byte
  s : Byte
  pc : Word
  p : Flags
  deriving DecidableEq, Repr

/-- What sequence the processor is in (R30): an instruction, `IRQSEQ`, `NMISEQ` or `RESETSEQ`. -/
inductive Seq where
  | instr | irq | nmi | reset
  deriving DecidableEq, Repr

/-- What one processor cycle showed: the byte its bus access transferred, and whether the sequence took over a pending
NMI in that cycle (R309, R530; only cycle 5 of a BRK or IRQ sequence can, and only when `brk_hijack` is true). -/
structure Obs where
  byte : Byte
  hijacked : Bool
  deriving DecidableEq, Repr

/-- The position inside the sequence in progress (R30): the kind of sequence, the registers at its start and what its
cycles so far showed. `t` is `seen.length + 1`; the opcode and the temporaries are read off `seen` (log entry 14). -/
structure InFlight where
  kind : Seq
  start : Regs
  seen : List Obs
  deriving DecidableEq, Repr

/-! ## Timer chip (61_io_timer_chip.md) -/

/-- The state of one timer chip (R341). -/
structure Via where
  ora : Byte
  orb : Byte
  ddra : Byte
  ddrb : Byte
  ila : Byte
  ilb : Byte
  t1c : Word
  t1l : Word
  t2c : Word
  t2l : Byte
  t1Armed : Bool
  t2Armed : Bool
  t1Loaded : Bool
  t2Loaded : Bool
  pb7 : Bool
  sr : Byte
  acr : Byte
  pcr : Byte
  ifr : BitVec 7
  ier : BitVec 7
  ca1Prev : Bool
  ca2Prev : Bool
  cb1Prev : Bool
  cb2Prev : Bool
  ca2Out : Bool
  cb2Out : Bool
  deriving DecidableEq, Repr

/-- What the outside world puts on one timer chip's pins in a clock (R346, R483). -/
structure PortInputs where
  pa : Byte
  pb : Byte
  ca1 : Bool
  ca2 : Bool
  cb1 : Bool
  cb2 : Bool
  deriving DecidableEq, Repr

/-- The host inputs of one clock (R483). -/
structure HostInputs where
  nmi : Bool
  a : PortInputs
  b : PortInputs
  deriving DecidableEq, Repr

/-! ## Video/audio chip (62_video_audio_chip.md) -/

/-- The ten fetch states (R403). -/
inductive FetchState where
  | outsideMatrix | inMatrixY | inMatrixX | matrixLine | matrixDelay1 | matrixDelay2 | matrixDelay3
  | screenCode | charData | matrixEnd
  deriving DecidableEq, Repr

/-- One voice generator: its 7-bit counter and 8-bit shift register (R404). -/
structure Voice where
  cnt : BitVec 7
  sr : BitVec 8
  deriving DecidableEq, Repr

/-- The state of the video/audio chip (R402, R404). -/
structure Vic where
  reg : VicRegs
  h : Nat
  v : Nat
  vPend : Bool
  fs : FetchState
  vmc : BitVec 12
  vmcLatch : BitVec 12
  colsLeft : BitVec 7
  rowsLeft : BitVec 6
  depth : BitVec 4
  code : Byte
  colour : BitVec 4
  pipe : Byte
  pipeColour : BitVec 4
  pixLeft : Fin 3
  voice0 : Voice
  voice1 : Voice
  voice2 : Voice
  voice3 : Voice
  lfsr : BitVec 16
  apre : Nat
  /-- The sample accumulator as its numerator over `sampleRate` (R404, R444; log entry 17). -/
  sacc : Nat
  deriving DecidableEq, Repr

/-- The kinds of blanking output (R409, R434). -/
inductive BlankKind where
  | hblank | vblank | shortSync | longSync
  deriving DecidableEq, Repr

/-- One output unit given to the pixel sink (R409). -/
inductive OutUnit where
  | pixel (c : BitVec 4)
  | blank (k : BlankKind)
  deriving DecidableEq, Repr

/-- The outputs of one clock: the units (R409), the audio sample if one was emitted (R444), and `frame_complete` (R436). -/
structure ClockOut where
  units : List OutUnit
  sample : Option Int
  frame : Bool
  deriving DecidableEq, Repr

/-! ## Machine -/

/-- The run state of the machine (R474, R476). -/
inductive RunState where
  | uninitialized | ready | running
  deriving DecidableEq, Repr

/-- The whole state of the machine (R20, R29 to R33). -/
structure State where
  /-- The configuration, fixed at `init` (R32). -/
  cfg : Config
  run : RunState
  regs : Regs
  nmiPrev : Bool
  nmiPending : Bool
  /-- `none` is an instruction boundary, `t = 0` (R30). -/
  seq : Option InFlight
  /-- `mem[0..65535]` (R31), RAM, ROM and colour RAM cells, in the canonical form of Machine/Memory.lean. -/
  mem : List Host.Cell
  /-- `L`, the bus latch (R31). -/
  latch : Byte
  viaA : Via
  viaB : Via
  vic : Vic
  /-- The model's own: the host inputs of the clock in progress (R483). -/
  inp : HostInputs
  /-- The model's own: the host inputs of the clocks to come (log entry 8). -/
  inputs : List HostInputs
  /-- The model's own: the number of clocks run (log entry 9). -/
  clock : Nat
  /-- The model's own: the outputs of the clocks run, newest first (log entry 18). -/
  sink : List ClockOut
  deriving DecidableEq, Repr

/-- What stops the machine with a fault. The processor and the chips raise none (R300); only `init` can fail (R477). -/
inductive Fault where
  /-- Raised by `init` for an unrecognised expansion size (R477). Safe: no machine is built. -/
  | unrecognisedExpansion
  /-- Raised by `init` for a missing or wrong-size character ROM, BASIC ROM or kernel ROM buffer (R477, D49). Safe: no machine is built. -/
  | missingRom
  deriving DecidableEq, Repr

/-- Why the model gives a step no meaning. -/
inductive Refusal where
  /-- Raised by an arm of `exec` whose instruction has no meaning yet. Safe: nothing can be proved of a run past it. -/
  | notModelled (mnemonic : String)
  /-- Raised when an undocumented opcode is fetched at a boundary (R137). Safe: the spec refuses it. -/
  | undocumentedOpcode (op : Byte)
  /-- Raised by a processor access to `$9010-$910F` or `$9130-$93FF` (R93). Safe: the spec refuses it. -/
  | unmodelledIoMirror (addr : Word)
  /-- Raised by an `ACR` write that selects a shift mode (R359, R367). Safe: the spec refuses it. -/
  | unmodelledShiftMode
  /-- Raised by an `ACR` write that selects timer 2 pulse counting (R357, R367). Safe: the spec refuses it. -/
  | unmodelledT2PulseCount
  /-- Raised by a `PCR` write that selects a handshake or pulse output mode (R365, R367). Safe: the spec refuses it. -/
  | unmodelledHandshake
  /-- Raised by a write of video register 0 with bit 7 set (R413). Safe: the spec refuses it. -/
  | unmodelledInterlace
  /-- Raised by a clock, or by `init` from a snapshot, whose fetch state is `IN_MATRIX_X` (R427, R479). Safe: the spec refuses it. -/
  | unreachableFetchState
  /-- Raised by a step or a host call before a successful `init` (R474). Safe: the spec refuses it. -/
  | notInitialised
  deriving DecidableEq, Repr

/-- The outcome of anything that a clock, a bus access or a step can end. -/
abbrev Result (σ : Type) := Host.Outcome σ Fault Refusal

namespace State

/-- Replaces the processor's registers. -/
def withRegs (s : State) (r : Regs) : State := { s with regs := r }

/-- Replaces the memory. -/
def withMem (s : State) (m : List Host.Cell) : State := { s with mem := m }

/-- Replaces the bus latch. -/
def withLatch (s : State) (v : Byte) : State := { s with latch := v }

/-- Replaces timer chip A. -/
def withViaA (s : State) (c : Via) : State := { s with viaA := c }

/-- Replaces timer chip B. -/
def withViaB (s : State) (c : Via) : State := { s with viaB := c }

/-- Replaces the video/audio chip. -/
def withVic (s : State) (c : Vic) : State := { s with vic := c }

/-- Replaces the sequence in progress. -/
def withSeq (s : State) (q : Option InFlight) : State := { s with seq := q }

/-- Replaces `nmi_prev` and `nmi_pending`. -/
def withNmi (s : State) (prev pending : Bool) : State :=
  { s with nmiPrev := prev, nmiPending := pending }

/-- Replaces `nmi_pending` alone. -/
def withNmiPending (s : State) (pending : Bool) : State := { s with nmiPending := pending }

/-- Replaces the host inputs of the clock and those of the clocks to come. -/
def withInputs (s : State) (now : HostInputs) (later : List HostInputs) : State :=
  { s with inp := now, inputs := later }

/-- Puts one clock's outputs into the sink. -/
def emit (s : State) (o : ClockOut) : State := { s with sink := o :: s.sink }

/-- Counts one clock. -/
def tick (s : State) : State := { s with clock := s.clock + 1 }

/-- Replaces the run state. -/
def withRun (s : State) (r : RunState) : State := { s with run := r }

end State

/-! ## Reset -/

/-- DESIGN CHOICE (log entry 1): A, X, Y, S and the flags after reset are draws in the spec (R34); the model names 0.
`P.I` is 1 (R34). `PC` is what the reset vector reads with nothing listed, until RESETSEQ loads it (log entry 11). -/
def Regs.atReset : Regs where
  a := 0
  x := 0
  y := 0
  s := 0
  pc := 0
  p := ⟨false, false, false, true, false, false⟩

/-- DESIGN CHOICE (log entry 8): every input line low. -/
def PortInputs.low : PortInputs := ⟨0, 0, false, false, false, false⟩

/-- DESIGN CHOICE (log entry 8): every input line low. -/
def HostInputs.low : HostInputs := ⟨false, PortInputs.low, PortInputs.low⟩

/-- A timer chip after reset (R370). The fields R370 leaves to `draw(via_reset_draw)` hold the DESIGN CHOICE values of log
entry 2; `ca1_prev` and the others hold the input levels at reset. -/
def Via.atReset : Via where
  ora := 0
  orb := 0
  ddra := 0
  ddrb := 0
  ila := 0
  ilb := 0
  t1c := 0
  t1l := 0
  t2c := 0
  t2l := 0
  t1Armed := false
  t2Armed := false
  t1Loaded := false
  t2Loaded := false
  pb7 := false
  sr := 0
  acr := 0
  pcr := 0
  ifr := 0
  ier := 0
  ca1Prev := false
  ca2Prev := false
  cb1Prev := false
  cb2Prev := false
  ca2Out := false
  cb2Out := false

/-- The video/audio chip after reset (R450), for the values of `vic_reset_values` and `lfsr_reset` a configuration holds. DESIGN
CHOICE (log entry 29): a reset value of register 0 with the interlace bit set is taken as it is. -/
def Vic.resetWith (regs : VicRegs) (lfsr : BitVec 16) : Vic where
  reg := regs
  h := 0
  v := 0
  vPend := false
  fs := .outsideMatrix
  vmc := 0
  vmcLatch := 0
  colsLeft := 0
  rowsLeft := 0
  depth := 0
  code := 0
  colour := 0
  pipe := 0
  pipeColour := 0
  pixLeft := 0
  voice0 := ⟨0, 0⟩
  voice1 := ⟨0, 0⟩
  voice2 := ⟨0, 0⟩
  voice3 := ⟨0, 0⟩
  lfsr := lfsr
  apre := 0
  sacc := 0

/-- The machine right after power-on and `reset()` (R475, R478, R500, R502): the chips in the states of R370 and R450, the
processor at `t = 1` of RESETSEQ, the machine `ready/paused`, memory with nothing listed. -/
def State.reset : State where
  cfg := Config.atReset
  run := .ready
  regs := Regs.atReset
  nmiPrev := false
  nmiPending := false
  seq := some ⟨.reset, Regs.atReset, []⟩
  mem := []
  latch := 0
  viaA := Via.atReset
  viaB := Via.atReset
  vic := Vic.resetWith Config.atReset.vicResetValues Config.atReset.lfsrReset
  inp := HostInputs.low
  inputs := []
  clock := 0
  sink := []

end Sys2Proof.Machine
end

