-- ==== Sys2Proof/Machine/Memory.lean ====
section
/-! DEFINITION. Memory as a sorted list of cells (R31, R70): addresses strictly rising, none of 65536 or more, no entry equal to
what an unlisted address reads as. -/

namespace Sys2Proof.Machine

/-- What an address that is not listed reads as. DESIGN CHOICE (log entry 5): RAM at power-on is a draw in the spec (R35) and
ROM holds the host's images (R95); the model names 0 for both. -/
def unlistedByte : Byte := 0

/-- The byte at an address. -/
def memGet : List Host.Cell → Nat → Byte
  | [], _ => unlistedByte
  | (k, v) :: rest, a => if a = k then v else memGet rest a

/-- A list of cells with one cell put in front, or left out when it holds what an unlisted address reads as. -/
def memCons (a : Nat) (v : Byte) (rest : List Host.Cell) : List Host.Cell :=
  if v = unlistedByte then rest else (a, v) :: rest

/-- The memory after a write of one byte, in canonical form again. -/
def memPut : List Host.Cell → Nat → Byte → List Host.Cell
  | [], a, v => memCons a v []
  | (k, w) :: rest, a, v =>
    if a < k then memCons a v ((k, w) :: rest)
    else if a = k then memCons a v rest
    else (k, w) :: memPut rest a v

/-- The canonical form: every address is above `lo` less one and below 65536, the addresses rise strictly, and no entry
equals what an unlisted address reads as. -/
def memWfFrom : Nat → List Host.Cell → Bool
  | _, [] => true
  | lo, (k, v) :: rest => decide (lo ≤ k) && decide (k < 65536) && decide (v ≠ unlistedByte) && memWfFrom (k + 1) rest

/-- The canonical form of a whole memory. -/
def Memory.wf (m : List Host.Cell) : Bool := memWfFrom 0 m

/-- Writes consecutive bytes from an address on (R475: a ROM buffer, a program image). -/
def memLoad : List Host.Cell → Nat → List Byte → List Host.Cell
  | m, _, [] => m
  | m, a, v :: rest => memLoad (memPut m a v) (a + 1) rest

end Sys2Proof.Machine
end

