-- ==== Sys2Proof/Machine/Map.lean ====
section
/-! DEFINITION. The address map (R86, R90, R92, R93): what stands at each of the 65536 addresses, fixed by the configuration. -/

namespace Sys2Proof.Machine

/-- What an address selects (R90). -/
inductive Region where
  | ram | rom | colour | vic | viaA | viaB | mirror | absent
  deriving DecidableEq, Repr

/-- Block 0, `$0400-$0FFF`, is RAM (R90). -/
def hasBlock0 (e : Expansion) : Bool := e == .k3 || e == .k35

/-- Block 1, `$2000-$3FFF`, is RAM (R90). -/
def hasBlock1 (e : Expansion) : Bool := e == .k8 || e == .k16 || e == .k24 || e == .k32 || e == .k35

/-- Block 2, `$4000-$5FFF`, is RAM (R90). -/
def hasBlock2 (e : Expansion) : Bool := e == .k16 || e == .k24 || e == .k32 || e == .k35

/-- Block 3, `$6000-$7FFF`, is RAM (R90). -/
def hasBlock3 (e : Expansion) : Bool := e == .k24 || e == .k32 || e == .k35

/-- Block 5, `$A000-$BFFF`, is RAM (R90). -/
def hasBlock5 (e : Expansion) : Bool := e == .k32 || e == .k35

/-- RAM where the expansion has it, absent where not. -/
def ramIf (b : Bool) : Region := if b then .ram else .absent

/-- A cartridge image is placed at an address of `$A000-$BFFF` (R90, D20): the program type is cartridge and the image reaches
that far. DESIGN CHOICE (log entry 28): the spec gives a cartridge image no size. -/
def cartridgeAt (c : Config) (addr : Word) : Bool :=
  c.programType == .cartridge && decide (addr.toNat < 0xA000 + c.cartridgeSize)

/-- What stands at an address of `$A000-$BFFF` (R90): cartridge ROM where an image is placed, else RAM of block 5, else nothing.
DESIGN CHOICE (log entry 22): a cartridge in a 32K or 35K machine takes the cells its image covers. -/
def block5 (c : Config) (addr : Word) : Region :=
  if cartridgeAt c addr then .rom else ramIf (hasBlock5 c.expansion)

/-- The region of an address (R90, R93). -/
def region (c : Config) (addr : Word) : Region :=
  let a := addr.toNat
  if a < 0x0400 then .ram
  else if a < 0x1000 then ramIf (hasBlock0 c.expansion)
  else if a < 0x2000 then .ram
  else if a < 0x4000 then ramIf (hasBlock1 c.expansion)
  else if a < 0x6000 then ramIf (hasBlock2 c.expansion)
  else if a < 0x8000 then ramIf (hasBlock3 c.expansion)
  else if a < 0x9000 then .rom
  else if a < 0x9010 then .vic
  else if a < 0x9110 then .mirror
  else if a < 0x9120 then .viaA
  else if a < 0x9130 then .viaB
  else if a < 0x9400 then .mirror
  else if a < 0x9800 then .colour
  else if a < 0xA000 then .absent
  else if a < 0xC000 then block5 c addr
  else .rom

/-- A RAM or ROM cell: a read gives the stored byte (R80). -/
def isMemory (c : Config) (addr : Word) : Bool :=
  match region c addr with
  | .ram | .rom => true
  | _ => false

/-- The register index of an address in a chip's window (R93). -/
def registerIndex (addr : Word) : BitVec 4 := addr.extractLsb' 0 4

/-- The stored byte at an address (R31), whatever the region. -/
def cell (m : List Host.Cell) (addr : Word) : Byte := memGet m addr.toNat

/-- The stored colour nibble at an address (R92). -/
def colourNibble (m : List Host.Cell) (addr : Word) : BitVec 4 := (cell m addr).extractLsb' 0 4

end Sys2Proof.Machine
end

