-- ==== Sys2Proof/Machine/Via.lean ====
section
/-! DEFINITION. The I/O timer chip (61_io_timer_chip.md): register reads and writes (R347 to R363, R367), the per-cycle step
(R350, R353, R356, R364 to R368), its outputs (R346) and its reset (R370). -/

namespace Sys2Proof.Machine

/-! ## Fields -/

/-- `ACR[0]` (R344): port A reads return `ILA`. -/
def paLatchOn (c : Via) : Bool := bitOf c.acr 0

/-- `ACR[1]` (R344): port B input bits read from `ILB`. -/
def pbLatchOn (c : Via) : Bool := bitOf c.acr 1

/-- `ACR[6]` (R344): timer 1 is free-running. -/
def t1FreeRunning (c : Via) : Bool := bitOf c.acr 6

/-- `ACR[7]` (R344): timer 1 drives port B bit 7. -/
def pb7Enabled (c : Via) : Bool := bitOf c.acr 7

/-- `PCR[3:1]`, the CA2 control field (R345). -/
def ca2Mode (pcr : Byte) : BitVec 3 := pcr.extractLsb' 1 3

/-- `PCR[7:5]`, the CB2 control field (R345). -/
def cb2Mode (pcr : Byte) : BitVec 3 := pcr.extractLsb' 5 3

/-- An independent interrupt input mode, `001` or `011` (R365): port accesses do not clear the flag. -/
def independentMode (m : BitVec 3) : Bool := m == 1#3 || m == 3#3

/-- A handshake or pulse output mode, `100` or `101` (R365): refused. -/
def handshakeMode (m : BitVec 3) : Bool := m == 4#3 || m == 5#3

/-- `irq_out` (R302, R362). -/
def irqOut (c : Via) : Bool := (c.ifr &&& c.ier) != 0#7

/-- A flag register with one flag set. -/
def setFlag (f : BitVec 7) (i : Nat) : BitVec 7 := f ||| (1#7 <<< i)

/-- A flag register with one flag cleared. -/
def clearFlag (f : BitVec 7) (i : Nat) : BitVec 7 := f &&& ~~~(1#7 <<< i)

/-- The manual output level a CA2 or CB2 control value gives (R365): low for `110`, high for `111`, kept otherwise. -/
def manualOut (m : BitVec 3) (old : Bool) : Bool :=
  if m == 6#3 then false else if m == 7#3 then true else old

/-! ## Ports (R346, R348, R349) -/

/-- The byte a port B read gives (R348). -/
def portBValue (pins : PortInputs) (c : Via) : Byte :=
  let inB := if pbLatchOn c then c.ilb else pins.pb
  let v := (c.orb &&& c.ddrb) ||| (inB &&& ~~~c.ddrb)
  if pb7Enabled c then BitVec.ofBool c.pb7 ++ v.extractLsb' 0 7 else v

/-- The byte a port A read gives (R349). -/
def portAValue (pins : PortInputs) (c : Via) : Byte :=
  let inA := if paLatchOn c then c.ila else pins.pa
  (c.ora &&& c.ddra) ||| (inA &&& ~~~c.ddra)

/-- A port B access clears CB1, and CB2 unless that line is independent (R348). -/
def clearPortBFlags (c : Via) : Via :=
  let f := clearFlag c.ifr 4
  { c with ifr := if independentMode (cb2Mode c.pcr) then f else clearFlag f 3 }

/-- A port A access through register 1 clears CA1, and CA2 unless that line is independent (R349). -/
def clearPortAFlags (c : Via) : Via :=
  let f := clearFlag c.ifr 1
  { c with ifr := if independentMode (ca2Mode c.pcr) then f else clearFlag f 0 }

/-- `PA_out` (R346), the driven levels of port A. -/
def portAOut (c : Via) : Byte := c.ora &&& c.ddra

/-- `PB_out` (R346), the driven levels of port B. -/
def portBOut (c : Via) : Byte := c.orb &&& c.ddrb

/-- The outputs one timer chip shows the outside world (R346). -/
structure PortOutputs where
  pa : Byte
  ddra : Byte
  pb : Byte
  ddrb : Byte
  /-- The `PB7` level, when `ACR[7] = 1`. -/
  pb7 : Option Bool
  ca2 : Bool
  cb2 : Bool
  irq : Bool
  deriving DecidableEq, Repr

/-- The outputs of a timer chip (R346). -/
def portOutputs (c : Via) : PortOutputs where
  pa := portAOut c
  ddra := c.ddra
  pb := portBOut c
  ddrb := c.ddrb
  pb7 := if pb7Enabled c then some c.pb7 else none
  ca2 := c.ca2Out
  cb2 := c.cb2Out
  irq := irqOut c

/-! ## Register access (R347) -/

/-- A read of register `r` (R347): the byte, and the chip with the read's side effect. -/
def viaRead (r : BitVec 4) (pins : PortInputs) (c : Via) : Byte × Via :=
  match r.toNat with
  | 0 => (portBValue pins c, clearPortBFlags c)
  | 1 => (portAValue pins c, clearPortAFlags c)
  | 2 => (c.ddrb, c)
  | 3 => (c.ddra, c)
  | 4 => (loByte c.t1c, { c with ifr := clearFlag c.ifr 6 })
  | 5 => (hiByte c.t1c, c)
  | 6 => (loByte c.t1l, c)
  | 7 => (hiByte c.t1l, c)
  | 8 => (loByte c.t2c, { c with ifr := clearFlag c.ifr 5 })
  | 9 => (hiByte c.t2c, c)
  | 10 => (c.sr, { c with ifr := clearFlag c.ifr 2 })
  | 11 => (c.acr, c)
  | 12 => (c.pcr, c)
  | 13 => (BitVec.ofBool (irqOut c) ++ c.ifr, c)
  | 14 => (1#1 ++ c.ier, c)
  | _ => (portAValue pins c, c)

/-- Why a write of `ACR` is refused, if it is (R357, R359, R367); a value with both faults names the shift mode (log entry 21). -/
def acrRefusal (v : Byte) : Option Refusal :=
  if v.extractLsb' 2 3 != 0#3 then some .unmodelledShiftMode
  else if bitOf v 5 then some .unmodelledT2PulseCount
  else none

/-- Why a write of `PCR` is refused, if it is (R365, R367). -/
def pcrRefusal (v : Byte) : Option Refusal :=
  if handshakeMode (ca2Mode v) || handshakeMode (cb2Mode v) then some .unmodelledHandshake else none

/-- A write of register 5 (R351): the high latch, the load of timer 1, its flag cleared, and `PB7` low when it is driven. -/
def loadT1 (v : Byte) (c : Via) : Via :=
  let latch := wordOf v (loByte c.t1l)
  { c with
    t1l := latch
    t1c := latch
    ifr := clearFlag c.ifr 6
    t1Armed := true
    t1Loaded := true
    pb7 := if pb7Enabled c then false else c.pb7 }

/-- A write of register 9 (R355): the load of timer 2, and its flag cleared. -/
def loadT2 (v : Byte) (c : Via) : Via :=
  { c with t2c := wordOf v c.t2l, ifr := clearFlag c.ifr 5, t2Armed := true, t2Loaded := true }

/-- A write of register 14 (R363): bit 7 says whether the other bits set or clear enables. -/
def writeIer (v : Byte) (c : Via) : Via :=
  let m := v.extractLsb' 0 7
  { c with ier := if bitOf v 7 then c.ier ||| m else c.ier &&& ~~~m }

/-- A write of register 12 (R345, R365): the value is stored, and a manual output mode drives its line. -/
def writePcr (v : Byte) (c : Via) : Via :=
  { c with pcr := v, ca2Out := manualOut (ca2Mode v) c.ca2Out, cb2Out := manualOut (cb2Mode v) c.cb2Out }

/-- A write of `v` to register `r` (R347): the chip after it, or the refusal of R367, with no change to any state. -/
def viaWrite (r : BitVec 4) (v : Byte) (c : Via) : Result Via :=
  match r.toNat with
  | 0 => .next (clearPortBFlags { c with orb := v })
  | 1 => .next (clearPortAFlags { c with ora := v })
  | 2 => .next { c with ddrb := v }
  | 3 => .next { c with ddra := v }
  | 4 => .next { c with t1l := wordOf (hiByte c.t1l) v }
  | 5 => .next (loadT1 v c)
  | 6 => .next { c with t1l := wordOf (hiByte c.t1l) v }
  | 7 => .next { c with t1l := wordOf v (loByte c.t1l), ifr := clearFlag c.ifr 6 }
  | 8 => .next { c with t2l := v }
  | 9 => .next (loadT2 v c)
  | 10 => .next { c with sr := v, ifr := clearFlag c.ifr 2 }
  | 11 =>
    match acrRefusal v with
    | some e => .refused e
    | none => .next { c with acr := v }
  | 12 =>
    match pcrRefusal v with
    | some e => .refused e
    | none => .next (writePcr v c)
  | 13 => .next { c with ifr := c.ifr &&& ~~~(v.extractLsb' 0 7) }
  | 14 => .next (writeIer v c)
  | _ => .next { c with ora := v }

/-! ## The per-cycle step (R368) -/

/-- An active edge of a line (R364, R365): a rise when `positive`, else a fall. -/
def activeEdge (positive : Bool) (prev now : Bool) : Bool :=
  if positive then !prev && now else prev && !now

/-- An active edge of CA2 or CB2 in its control mode (R365): only the four input modes detect one, and bit 1 of the mode
chooses the direction. -/
def modeEdge (m : BitVec 3) (prev now : Bool) : Bool :=
  !(m.getLsbD 2) && activeEdge (m.getLsbD 1) prev now

/-- Sets a flag when an event happened. -/
def flagIf (b : Bool) (i : Nat) (f : BitVec 7) : BitVec 7 := if b then setFlag f i else f

/-- The edges of CA1 and CB1 and the port latches (R364, R366), then the edges of CA2 and CB2 (R365), then the levels
remembered for the next cycle (log entry 20). -/
def controlStep (pins : PortInputs) (c : Via) : Via :=
  let ca1 := activeEdge (bitOf c.pcr 0) c.ca1Prev pins.ca1
  let cb1 := activeEdge (bitOf c.pcr 4) c.cb1Prev pins.cb1
  let ca2 := modeEdge (ca2Mode c.pcr) c.ca2Prev pins.ca2
  let cb2 := modeEdge (cb2Mode c.pcr) c.cb2Prev pins.cb2
  { c with
    ifr := flagIf cb2 3 (flagIf ca2 0 (flagIf cb1 4 (flagIf ca1 1 c.ifr)))
    ila := if ca1 then pins.pa else c.ila
    ilb := if cb1 then pins.pb else c.ilb
    ca1Prev := pins.ca1
    cb1Prev := pins.cb1
    ca2Prev := pins.ca2
    cb2Prev := pins.cb2 }

/-- The timer 1 step (R350, R353, R354). -/
def timer1Step (c : Via) : Via :=
  if c.t1Loaded then { c with t1Loaded := false }
  else if c.t1c != 0#16 then { c with t1c := c.t1c - 1 }
  else if t1FreeRunning c then
    { c with t1c := c.t1l, ifr := setFlag c.ifr 6, pb7 := if pb7Enabled c then !c.pb7 else c.pb7 }
  else if c.t1Armed then
    { c with
      t1c := 0xFFFF#16
      ifr := setFlag c.ifr 6
      t1Armed := false
      pb7 := if pb7Enabled c then true else c.pb7 }
  else { c with t1c := 0xFFFF#16 }

/-- The timer 2 step (R350, R356). With `ACR[5] = 1`, which no write can reach (R357), timer 2 stands still (log entry 26). -/
def timer2Step (c : Via) : Via :=
  if bitOf c.acr 5 then c
  else if c.t2Loaded then { c with t2Loaded := false }
  else if c.t2c != 0#16 then { c with t2c := c.t2c - 1 }
  else if c.t2Armed then { c with t2c := 0xFFFF#16, ifr := setFlag c.ifr 5, t2Armed := false }
  else { c with t2c := 0xFFFF#16 }

/-- `cycle()` of one chip (R368): control lines and latches, then timer 1, then timer 2. -/
def viaCycle (pins : PortInputs) (c : Via) : Via := timer2Step (timer1Step (controlStep pins c))

/-! ## Reset (R370) -/

/-- The values R370 leaves to `draw(via_reset_draw)`: the host's choice at each reset. -/
structure ViaDraw where
  t1c : Word
  t1l : Word
  t2c : Word
  t2l : Byte
  sr : Byte
  t1Armed : Bool
  t2Armed : Bool
  pb7 : Bool
  ila : Byte
  ilb : Byte
  deriving DecidableEq, Repr

/-- A chip after reset (R370), for the drawn values and the input levels `pins` at reset. The caller chooses whose levels those are:
`resetState` gives the levels of the clock last run (DESIGN CHOICE, log entry 31). -/
def viaReset (d : ViaDraw) (pins : PortInputs) : Via where
  ora := 0
  orb := 0
  ddra := 0
  ddrb := 0
  ila := d.ila
  ilb := d.ilb
  t1c := d.t1c
  t1l := d.t1l
  t2c := d.t2c
  t2l := d.t2l
  t1Armed := d.t1Armed
  t2Armed := d.t2Armed
  t1Loaded := false
  t2Loaded := false
  pb7 := d.pb7
  sr := d.sr
  acr := 0
  pcr := 0
  ifr := 0
  ier := 0
  ca1Prev := pins.ca1
  ca2Prev := pins.ca2
  cb1Prev := pins.cb1
  cb2Prev := pins.cb2
  ca2Out := false
  cb2Out := false

end Sys2Proof.Machine
end

