-- ==== Sys2Proof/Machine/Vic.lean ====
section
/-! DEFINITION. The video/audio chip (62_video_audio_chip.md): its registers (R410 to R413), the video address space
(R406 to R408), pixel output and blanking (R430 to R434), the fetch state machine (R422, R425, R427), the raster (R421,
R436) and the sound voices (R440 to R444). -/

namespace Sys2Proof.Machine

/-! ## Registers -/

/-- The stored register of an index (R402). -/
def vicReg (g : VicRegs) (r : BitVec 4) : Byte :=
  match r.toNat with
  | 0 => g.r0
  | 1 => g.r1
  | 2 => g.r2
  | 3 => g.r3
  | 4 => g.r4
  | 5 => g.r5
  | 6 => g.r6
  | 7 => g.r7
  | 8 => g.r8
  | 9 => g.r9
  | 10 => g.rA
  | 11 => g.rB
  | 12 => g.rC
  | 13 => g.rD
  | 14 => g.rE
  | _ => g.rF

/-- What a processor read of register `r` gives in the clock of number `clock` (R410, R411): the raster in registers 3 and 4,
fresh draws for the light pen and the paddles (log entry 9), the stored value elsewhere. -/
def vicRead (r : BitVec 4) (clock : Nat) (c : Vic) : Byte :=
  match r.toNat with
  | 3 => BitVec.ofBool (c.v % 2 == 1) ++ c.reg.r3.extractLsb' 0 7
  | 4 => BitVec.ofNat 8 (c.v / 2)
  | 6 | 7 => Config.lightPen clock
  | 8 | 9 => Config.paddle clock
  | _ => vicReg c.reg r

/-- The stored registers after a processor write of `v` to register `r` (R410): registers 4 and 6 to 9 ignore it, and
register 3 keeps its bit 7. -/
def vicRegWrite (r : BitVec 4) (v : Byte) (g : VicRegs) : VicRegs :=
  match r.toNat with
  | 0 => { g with r0 := v }
  | 1 => { g with r1 := v }
  | 2 => { g with r2 := v }
  | 3 => { g with r3 := g.r3.extractLsb' 7 1 ++ v.extractLsb' 0 7 }
  | 5 => { g with r5 := v }
  | 10 => { g with rA := v }
  | 11 => { g with rB := v }
  | 12 => { g with rC := v }
  | 13 => { g with rD := v }
  | 14 => { g with rE := v }
  | 15 => { g with rF := v }
  | _ => g

/-- A processor write of register `r` (R410), refused when it sets interlace (R413). An interlace bit that comes from a reset value
or a snapshot has no effect in the model (DESIGN CHOICE, log entry 29). -/
def vicWrite (r : BitVec 4) (v : Byte) (c : Vic) : Result Vic :=
  if r == 0#4 && bitOf v 7 then .refused .unmodelledInterlace
  else .next { c with reg := vicRegWrite r v c.reg }

/-! ## Register fields (R408, R412) -/

/-- Screen origin X, compared with `h`. -/
def originX (g : VicRegs) : Nat := (g.r0.extractLsb' 0 7).toNat

/-- Screen origin Y, compared with `v >> 1`. -/
def originY (g : VicRegs) : Nat := g.r1.toNat

/-- The number of columns, `reg[2][6:0]`. -/
def columnCount (g : VicRegs) : BitVec 7 := g.r2.extractLsb' 0 7

/-- The number of rows, `reg[3][6:1]`. -/
def rowCount (g : VicRegs) : BitVec 6 := g.r3.extractLsb' 1 6

/-- `height` (R408). -/
def charHeight (g : VicRegs) : Nat := if bitOf g.r3 0 then 16 else 8

/-- `vm_base` (R408). -/
def matrixBase (g : VicRegs) : BitVec 14 := g.r5.extractLsb' 4 4 ++ g.r2.extractLsb' 7 1 ++ 0#9

/-- `cg_base` (R408). -/
def charBase (g : VicRegs) : BitVec 14 := g.r5.extractLsb' 0 4 ++ 0#10

/-- Colour slot 0, background (R430). -/
def background (g : VicRegs) : BitVec 4 := g.rF.extractLsb' 4 4

/-- Colour slot 1, border (R430). -/
def border (g : VicRegs) : BitVec 4 := 0#1 ++ g.rF.extractLsb' 0 3

/-- Colour slot 2, foreground (R430). -/
def foreground (c : Vic) : BitVec 4 := 0#1 ++ c.pipeColour.extractLsb' 0 3

/-- Colour slot 3, auxiliary (R430). -/
def auxiliary (g : VicRegs) : BitVec 4 := g.rE.extractLsb' 4 4

/-- The reverse bit is 1 in normal mode (R412, R431). -/
def normalVideo (g : VicRegs) : Bool := bitOf g.rF 3

/-! ## Video address space (R406, R407) -/

/-- `cpu(va)` (R406): the processor address of a video address. -/
def videoToCpu (va : BitVec 14) : Word :=
  (if va.getLsbD 13 then 0#3 else 4#3) ++ va.extractLsb' 0 13

/-- The colour cell of a video address (R406). -/
def colourCellOf (va : BitVec 14) : Word := 0b100101#6 ++ va.extractLsb' 0 10

/-- `VideoRead(va)` (R407), for the draw of this clock. -/
def videoRead (cfg : Config) (m : List Host.Cell) (draw : Byte) (va : BitVec 14) : Byte :=
  let a := videoToCpu va
  match region cfg a with
  | .ram | .rom => cell m a
  | .colour => draw.extractLsb' 4 4 ++ colourNibble m a
  | _ => draw

/-- `ColourRead(va)` (R407). -/
def colourRead (m : List Host.Cell) (va : BitVec 14) : BitVec 4 := colourNibble m (colourCellOf va)

/-- The address of the screen-code fetch (R422, R423). -/
def screenAddress (c : Vic) : BitVec 14 := matrixBase c.reg + c.vmc.setWidth 14

/-- The address of the character fetch (R422, R423). -/
def charAddress (c : Vic) : BitVec 14 :=
  charBase c.reg + BitVec.ofNat 14 (c.code.toNat * charHeight c.reg + c.depth.toNat)

/-! ## Output (R430 to R434) -/

/-- `upp` (R401, R433): output units in a chip pixel. -/
def unitsPerPixel : Nat := 2

/-- The four bits of `pipe` this cycle outputs (R430). -/
def pipeHalf (c : Vic) : BitVec 4 :=
  if c.pixLeft == 2 then c.pipe.extractLsb' 4 4 else c.pipe.extractLsb' 0 4

/-- A hi-res pixel (R431). -/
def hiresPixel (c : Vic) (b : Bool) : BitVec 4 :=
  if b == normalVideo c.reg then foreground c else background c.reg

/-- A multicolour pair (R432). -/
def multiPixel (c : Vic) (p : BitVec 2) : BitVec 4 :=
  if p == 0#2 then background c.reg
  else if p == 1#2 then border c.reg
  else if p == 2#2 then foreground c
  else auxiliary c.reg

/-- The four chip pixels of a cycle (R430 to R432). -/
def chipPixels (c : Vic) : List (BitVec 4) :=
  if c.pixLeft == 0 then List.replicate 4 (border c.reg)
  else
    let p := pipeHalf c
    if c.pipeColour.getLsbD 3 then
      let hi := multiPixel c (p.extractLsb' 2 2)
      let lo := multiPixel c (p.extractLsb' 0 2)
      [hi, hi, lo, lo]
    else [hiresPixel c (p.getLsbD 3), hiresPixel c (p.getLsbD 2), hiresPixel c (p.getLsbD 1), hiresPixel c (p.getLsbD 0)]

/-- Each chip pixel is `upp` equal output units (R433). -/
def pixelUnits (c : Vic) : List OutUnit :=
  (chipPixels c).flatMap fun p => List.replicate unitsPerPixel (.pixel p)

/-- The kind of vertical blanking of a line before `first_visible` (R434). -/
def verticalKind (t : Timing) (v : Nat) : BlankKind :=
  if v < t.vsShort1 then .shortSync
  else if v < t.vsShort1 + t.vsLong then .longSync
  else if v < t.vsShort1 + t.vsLong + t.vsShort2 then .shortSync
  else .vblank

/-- A list of units with its first `lead` and last `trail` units blanked (R434). -/
def swallow (lead trail : Nat) (l : List OutUnit) : List OutUnit :=
  l.mapIdx fun i u => if i < lead || l.length < i + 1 + trail then .blank .hblank else u

/-- The output units of a cycle after blanking (R434), from the state at its start (R420). -/
def outputUnits (t : Timing) (c : Vic) : List OutUnit :=
  if c.v < t.firstVisible then List.replicate (4 * unitsPerPixel) (.blank (verticalKind t c.v))
  else if c.h < t.hvisFirst || t.hvisLast < c.h then List.replicate (4 * unitsPerPixel) (.blank .hblank)
  else
    swallow (if c.h == t.hvisFirst then t.leadSwallow else 0) (if c.h == t.hvisLast then t.trailSwallow else 0)
      (pixelUnits c)

/-- The pipeline after a cycle's output (R430): it advances whether or not the cycle is blanked. -/
def shiftPipe (c : Vic) : Vic :=
  { c with pixLeft := if c.pixLeft == 2 then 1 else 0 }

/-! ## Fetch and transition (R422) -/

/-- The state after a line of matrix fetches is set up (R422, R425). -/
def startMatrixLine (c : Vic) : Vic :=
  { c with fs := .matrixDelay1, vmc := c.vmcLatch, colsLeft := columnCount c.reg }

/-- The fetch and the next fetch state (R422). `IN_MATRIX_X` never runs (R427). -/
def fetchCase (cfg : Config) (m : List Host.Cell) (draw : Byte) (c : Vic) : Vic :=
  match c.fs with
  | .outsideMatrix =>
    if rowCount c.reg != 0#6 && c.v / 2 == originY c.reg then
      { c with fs := .inMatrixY, rowsLeft := rowCount c.reg, depth := 0 }
    else c
  | .inMatrixY => if c.h == originX c.reg then startMatrixLine c else c
  | .matrixLine =>
    if c.rowsLeft == 0#6 then { c with fs := .outsideMatrix }
    else if c.h == originX c.reg then startMatrixLine c
    else c
  | .matrixDelay1 => { c with fs := .matrixDelay2 }
  | .matrixDelay2 => { c with fs := .matrixDelay3 }
  | .matrixDelay3 => { c with fs := if c.colsLeft != 0#7 then .screenCode else .matrixEnd }
  | .screenCode =>
    { c with
      code := videoRead cfg m draw (screenAddress c)
      colour := colourRead m (screenAddress c)
      vmc := c.vmc + 1
      fs := .charData }
  | .charData =>
    { c with
      pipe := videoRead cfg m draw (charAddress c)
      pipeColour := c.colour
      pixLeft := 2
      colsLeft := c.colsLeft - 1
      fs := if c.colsLeft - 1 != 0#7 then .screenCode else .matrixEnd }
  | .matrixEnd =>
    if c.depth.toNat == charHeight c.reg - 1 then
      { c with depth := 0, vmcLatch := c.vmc, rowsLeft := c.rowsLeft - 1, fs := .matrixLine }
    else { c with depth := c.depth + 1, fs := .matrixLine }
  | .inMatrixX => c

/-- A long-sync line (R422, R425, R434). -/
def inLongSync (t : Timing) (v : Nat) : Bool := t.vsShort1 ≤ v && v < t.vsShort1 + t.vsLong

/-- The fetch of a cycle, and the zeroing of the video-matrix latch in the long-sync lines (R422, R425). -/
def fetchStep (cfg : Config) (m : List Host.Cell) (draw : Byte) (c : Vic) : Vic :=
  let c' := fetchCase cfg m draw c
  if inLongSync cfg.timing c.v then { c' with vmcLatch := 0 } else c'

/-! ## Audio (R440 to R444) -/

/-- The 7-bit frequency value of a voice's register (R412, R441). -/
def frequency (reg : Byte) : BitVec 7 := reg.extractLsb' 0 7

/-- One clock of a tone voice (R441, R442). -/
def toneClock (f : BitVec 7) (w : Voice) : Voice :=
  if w.cnt == 0#7 then ⟨f, w.sr <<< 1 ||| bitByte (!bitOf w.sr 7)⟩ else { w with cnt := w.cnt - 1 }

/-- One step of the noise register (R443). -/
def lfsrStep (l : BitVec 16) : BitVec 16 :=
  l <<< 1 ||| (bitByte (xor (xor (l.getLsbD 3) (l.getLsbD 12)) (xor (l.getLsbD 14) (l.getLsbD 15)))).setWidth 16

/-- One clock of the noise voice (R441, R443): the LFSR steps on the positive edge of bit 0 of the voice's shift register. -/
def noiseClock (f : BitVec 7) (l : BitVec 16) (w : Voice) : Voice × BitVec 16 :=
  if w.cnt == 0#7 then
    let sr := w.sr <<< 1 ||| bitByte (Config.noiseFeedback w.sr l)
    (⟨f, sr⟩, if !bitOf w.sr 0 && bitOf sr 0 then lfsrStep l else l)
  else ({ w with cnt := w.cnt - 1 }, l)

/-- Voice `i` is clocked when the prescaler is a multiple of `div[i] * voice_clock_unit` (R440). -/
def voiceClocked (cfg : Config) (apre div : Nat) : Bool := apre % (div * cfg.voiceClockUnit) == 0

/-- The prescaler and the voices after a cycle (R440 to R443). The clocking looks at the prescaler's new value (log entry 23). -/
def voicesStep (cfg : Config) (c : Vic) : Vic :=
  let apre := (c.apre + 1) % (16 * cfg.voiceClockUnit)
  let noise := if voiceClocked cfg apre 2 then noiseClock (frequency c.reg.rD) c.lfsr c.voice3 else (c.voice3, c.lfsr)
  { c with
    apre := apre
    voice0 := if voiceClocked cfg apre 16 then toneClock (frequency c.reg.rA) c.voice0 else c.voice0
    voice1 := if voiceClocked cfg apre 8 then toneClock (frequency c.reg.rB) c.voice1 else c.voice1
    voice2 := if voiceClocked cfg apre 4 then toneClock (frequency c.reg.rC) c.voice2 else c.voice2
    voice3 := noise.1
    lfsr := noise.2 }

/-- One voice's part of the mix (R444): its weight when its enable bit and bit 0 of its shift register are both 1. -/
def voicePart (reg : Byte) (weight : Int) (w : Voice) : Int :=
  if bitOf reg 7 && bitOf w.sr 0 then weight else 0

/-- The mixed sample (R444). -/
def mixedSample (cfg : Config) (c : Vic) : Int :=
  ((c.reg.rE.extractLsb' 0 4).toNat : Int) *
    (voicePart c.reg.rA cfg.weight0 c.voice0 + voicePart c.reg.rB cfg.weight1 c.voice1 +
      voicePart c.reg.rC cfg.weight2 c.voice2 + voicePart c.reg.rD cfg.weight3 c.voice3)

/-- The sample accumulator and the sample emitted (R444), in units of `1 / sampleRate` (log entry 17). -/
def sampleStep (cfg : Config) (c : Vic) : Vic × Option Int :=
  let acc := c.sacc + cfg.sampleRate
  if cfg.timing.clockHz ≤ acc then ({ c with sacc := acc - cfg.timing.clockHz }, some (mixedSample cfg c))
  else ({ c with sacc := acc }, none)

/-! ## Raster (R421, R436) -/

/-- The vertical counter after a cycle (R421): it moves one cycle after the horizontal counter wrapped. -/
def nextV (cfg : Config) (c : Vic) : Nat := if c.vPend then (c.v + 1) % cfg.lines else c.v

/-- The raster advance (R421). -/
def rasterStep (cfg : Config) (c : Vic) : Vic :=
  { c with
    h := if c.h == cfg.timing.lineCycles - 1 then 0 else c.h + 1
    vPend := c.h == cfg.timing.lineCycles - 1
    v := nextV cfg c }

/-- `frame_complete` (R436): this cycle's raster advance changes `v` to `first_visible`. -/
def frameComplete (cfg : Config) (c : Vic) : Bool := c.vPend && nextV cfg c == cfg.timing.firstVisible

/-! ## The cycle (R420) -/

/-- `vic_cycle()` (R420): output, fetch, audio, raster, in this order. A state in `IN_MATRIX_X` is refused (R427). -/
def vicCycle (cfg : Config) (m : List Host.Cell) (clock : Nat) (c : Vic) : Result (Vic × ClockOut) :=
  match c.fs with
  | .inMatrixX => .refused .unreachableFetchState
  | _ =>
    let fetched := fetchStep cfg m (Config.videoAbsentRead clock) (shiftPipe c)
    let sounded := sampleStep cfg (voicesStep cfg fetched)
    .next (rasterStep cfg sounded.1, ⟨outputUnits cfg.timing c, sounded.2, frameComplete cfg c⟩)

end Sys2Proof.Machine
end

