-- ==== Sys2Proof/Machine/Bus.lean ====
section
/-! DEFINITION. The bus (R80 to R88): one read, one write, one instruction fetch, with the latch update and the chips' register
logic. -/

namespace Sys2Proof.Machine

/-- Runs `k` on the next value of an outcome; a fault or a refusal ends it. -/
def andThen {σ τ : Type} (o : Result σ) (k : σ → Result τ) : Result τ :=
  match o with
  | .next x => k x
  | .fault e => .fault e
  | .refused e => .refused e

/-- The end of every bus read (R83): the latch holds the byte read. -/
def readDone (v : Byte) (s : State) : Result (Byte × State) := .next (v, s.withLatch v)

/-- `MemRead(addr, 1)` (R80). -/
def busRead (addr : Word) (s : State) : Result (Byte × State) :=
  match region s.cfg addr with
  | .vic => readDone (vicRead (registerIndex addr) s.clock s.vic) s
  | .viaA =>
    readDone (viaRead (registerIndex addr) s.inp.a s.viaA).1
      (s.withViaA (viaRead (registerIndex addr) s.inp.a s.viaA).2)
  | .viaB =>
    readDone (viaRead (registerIndex addr) s.inp.b s.viaB).1
      (s.withViaB (viaRead (registerIndex addr) s.inp.b s.viaB).2)
  | .ram | .rom => readDone (cell s.mem addr) s
  | .colour => readDone (s.latch.extractLsb' 4 4 ++ colourNibble s.mem addr) s
  | .absent => readDone s.latch s
  | .mirror => .refused (.unmodelledIoMirror addr)

/-- The memory after a write of `v` that reaches no chip (R81): RAM takes the byte, colour RAM its low nibble (R92), ROM
and absent cells nothing (R88). -/
def storeByte (cfg : Config) (m : List Host.Cell) (addr : Word) (v : Byte) : List Host.Cell :=
  match region cfg addr with
  | .ram => memPut m addr.toNat v
  | .colour => memPut m addr.toNat (v &&& 0x0F#8)
  | _ => m

/-- `MemWrite(addr, 1, v)` (R81). -/
def busWrite (addr : Word) (v : Byte) (s : State) : Result State :=
  match region s.cfg addr with
  | .vic => andThen (vicWrite (registerIndex addr) v s.vic) fun c => .next ((s.withVic c).withLatch v)
  | .viaA => andThen (viaWrite (registerIndex addr) v s.viaA) fun c => .next ((s.withViaA c).withLatch v)
  | .viaB => andThen (viaWrite (registerIndex addr) v s.viaB) fun c => .next ((s.withViaB c).withLatch v)
  | .mirror => .refused (.unmodelledIoMirror addr)
  | .ram | .rom | .colour | .absent => .next ((s.withMem (storeByte s.cfg s.mem addr v)).withLatch v)

/-- A read at `PC` (R84): from a RAM or ROM cell it updates the latch only when `latch_on_fetch` is true; from any other
address it is a `MemRead`. -/
def busFetch (addr : Word) (s : State) : Result (Byte × State) :=
  if isMemory s.cfg addr && !s.cfg.latchOnFetch then .next (cell s.mem addr, s) else busRead addr s

/-- `MemRead16(addr)` (R74) as a function of stored bytes: little-endian, wrapping at `$FFFF` (R72). -/
def wordAt (byteAt : Word → Byte) (addr : Word) : Word := wordOf (byteAt (addr + 1)) (byteAt addr)

/-- A word whose high byte comes from the same page as its low byte (R136: the pointer of `JMP (ind)`). -/
def wordAtSamePage (byteAt : Word → Byte) (addr : Word) : Word :=
  wordOf (byteAt (wordOf (hiByte addr) (loByte addr + 1))) (byteAt addr)

end Sys2Proof.Machine
end

