-- ==== Sys2Proof/Machine/Flags.lean ====
section
/-! DEFINITION. Every flag computation of the instruction set (R23, R190 to R196, R202, R205, R230 to R234). -/

namespace Sys2Proof.Machine

/-- `SetNZ(v)` (R13): N is bit 7 of the result, Z says it is zero. -/
def setNZ (v : Byte) (p : Flags) : Flags := { p with n := bitOf v 7, z := v == 0#8 }

/-- `PackP(b)` (R23): the byte a push of the flags stores, with bit 5 set and bit 4 equal to `b`. -/
def packP (p : Flags) (b : Bool) : Byte :=
  BitVec.ofBool p.n ++ BitVec.ofBool p.v ++ 1#1 ++ BitVec.ofBool b ++ BitVec.ofBool p.d ++ BitVec.ofBool p.i ++
    BitVec.ofBool p.z ++ BitVec.ofBool p.c

/-- `UnpackP(v)` (R23): the six flags a pulled byte gives; bits 4 and 5 are discarded. -/
def unpackP (v : Byte) : Flags :=
  ⟨bitOf v 7, bitOf v 6, bitOf v 3, bitOf v 2, bitOf v 1, bitOf v 0⟩

/-- What an addition or subtraction gives: the result byte and the four flags it writes (R191 to R194). -/
structure Sum where
  result : Byte
  c : Bool
  v : Bool
  n : Bool
  z : Bool
  deriving DecidableEq, Repr

/-- The carry as a number. -/
def carryNat (c : Bool) : Nat := if c then 1 else 0

/-- `AddBin(a, m, c)` (R191). -/
def addBin (a m : Byte) (c : Bool) : Sum :=
  let s := a.toNat + m.toNat + carryNat c
  let r := BitVec.ofNat 8 s
  { result := r
    c := decide (255 < s)
    v := bitOf (~~~(a ^^^ m) &&& (a ^^^ r)) 7
    n := bitOf r 7
    z := r == 0#8 }

/-- `SubBin(a, m, c)` (R192): the carry is an inverted borrow. -/
def subBin (a m : Byte) (c : Bool) : Sum :=
  let d : Int := (a.toNat : Int) - m.toNat - (1 - carryNat c)
  let r := BitVec.ofInt 8 d
  { result := r
    c := decide (0 ≤ d)
    v := bitOf ((a ^^^ m) &&& (a ^^^ r)) 7
    n := bitOf r 7
    z := r == 0#8 }

/-- `AddDec(a, m, c)` (R193), with `decimal_flag_model = nmos` (R195, D6): C from the corrected sum, N and V from the
sum before the high-digit correction, Z from the binary sum. -/
def addDec (a m : Byte) (c : Bool) : Sum :=
  let lo0 := a.toNat % 16 + m.toNat % 16 + carryNat c
  let lo := if 0x0A ≤ lo0 then (lo0 + 0x06) % 16 + 0x10 else lo0
  let t := a.toNat / 16 * 16 + m.toNat / 16 * 16 + lo
  let u := if 0xA0 ≤ t then t + 0x60 else t
  { result := BitVec.ofNat 8 u
    c := decide (0x100 ≤ u)
    v := bitOf (~~~(a ^^^ m) &&& (a ^^^ BitVec.ofNat 8 t)) 7
    n := bitOf (BitVec.ofNat 8 t) 7
    z := (a.toNat + m.toNat + carryNat c) % 256 == 0 }

/-- `SubDec(a, m, c)` (R194), with `decimal_flag_model = nmos` (R195, D6): the flags are those of the binary subtraction. -/
def subDec (a m : Byte) (c : Bool) : Sum :=
  let lo0 : Int := ((a.toNat % 16 : Nat) : Int) - ((m.toNat % 16 : Nat) : Int) + carryNat c - 1
  let lo : Int := if lo0 < 0 then (lo0 - 0x06) % 16 - 0x10 else lo0
  let t : Int := ((a.toNat / 16 * 16 : Nat) : Int) - ((m.toNat / 16 * 16 : Nat) : Int) + lo
  let u : Int := if t < 0 then t - 0x60 else t
  { subBin a m c with result := BitVec.ofInt 8 u }

/-- The flags after an addition or subtraction (R197, R198): N, V, Z, C; I and D keep their values. -/
def sumFlags (o : Sum) (p : Flags) : Flags := { p with n := o.n, v := o.v, z := o.z, c := o.c }

/-- The flags a compare of a register with an operand writes (R202): C, Z, N, always binary. -/
def compareFlags (a m : Byte) (p : Flags) : Flags :=
  { p with c := decide (m.toNat ≤ a.toNat), z := a == m, n := bitOf (a - m) 7 }

/-- The flags `BIT` writes (R205): Z from `A & M`, N and V from the operand. -/
def bitFlags (a m : Byte) (p : Flags) : Flags :=
  { p with z := (a &&& m) == 0#8, n := bitOf m 7, v := bitOf m 6 }

/-- What a shift, a rotate, an increment or a decrement makes of a byte: the new byte and the flags (R206, R207, R230). -/
structure Modified where
  byte : Byte
  p : Flags
  deriving DecidableEq, Repr

/-- The common end of a shift or rotate (R230): C is the bit shifted out, N and Z come from the result. -/
def shiftResult (r : Byte) (out : Bool) (p : Flags) : Modified := ⟨r, { setNZ r p with c := out }⟩

/-- `ASL` of a byte (R231). -/
def aslByte (v : Byte) (p : Flags) : Modified := shiftResult (v <<< 1) (bitOf v 7) p

/-- `LSR` of a byte (R232). -/
def lsrByte (v : Byte) (p : Flags) : Modified := shiftResult (v >>> 1) (bitOf v 0) p

/-- `ROL` of a byte (R233): the old C enters bit 0. -/
def rolByte (v : Byte) (p : Flags) : Modified := shiftResult (v <<< 1 ||| bitByte p.c) (bitOf v 7) p

/-- `ROR` of a byte (R234): the old C enters bit 7. -/
def rorByte (v : Byte) (p : Flags) : Modified := shiftResult (v >>> 1 ||| bitByte p.c <<< 7) (bitOf v 0) p

/-- `INC` of a byte (R206). -/
def incByte (v : Byte) (p : Flags) : Modified := ⟨v + 1, setNZ (v + 1) p⟩

/-- `DEC` of a byte (R207). -/
def decByte (v : Byte) (p : Flags) : Modified := ⟨v - 1, setNZ (v - 1) p⟩

end Sys2Proof.Machine
end

