-- ==== Sys2Proof/Machine/Micro.lean ====
section
/-! DEFINITION. The cycle script of a sequence (R30, R520): what the processor does on the bus in each cycle, and what its
registers hold between two cycles. An instruction's meaning is its script run to the end; `step_cycle()` runs one
cycle of it. -/

namespace Sys2Proof.Machine

/-- What the processor puts on the bus in one cycle (R520). -/
inductive BusOp where
  /-- No bus access: only cycles 1 to 5 of RESETSEQ (R500). -/
  | none
  /-- A `MemRead` (R80). -/
  | read (addr : Word)
  /-- A read at `PC`: an opcode or operand fetch, or the dummy read of the next byte (R84, R520). -/
  | fetch (addr : Word)
  /-- A `MemWrite` (R81). -/
  | write (addr : Word) (value : Byte)
  deriving DecidableEq, Repr

/-- What a cycle does to the pending NMI after the cycle's sample of the line (R304, R306, R530). -/
inductive NmiAct where
  /-- Nothing: every cycle but these two. -/
  | keep
  /-- The NMI sequence is entered: `nmi_pending` is cleared (R306). -/
  | enter
  /-- Cycle 5 of a BRK or IRQ sequence: with `brk_hijack`, a pending NMI is cleared and its vector taken (R530). -/
  | hijack
  deriving DecidableEq, Repr

/-- A cycle script. -/
inductive Micro where
  /-- The sequence has run its last cycle, and the registers hold `r`. -/
  | done (r : Regs)
  /-- The sequence has no meaning, for the reason named. -/
  | refuse (e : Refusal)
  /-- One cycle: the registers before it, its bus access, what it does to the pending NMI, and the rest of the script for
  what the cycle showed. -/
  | cycle (r : Regs) (bus : BusOp) (nmi : NmiAct) (next : Obs → Micro)

/-- A cycle that reads `addr` (R80). -/
def rd (r : Regs) (addr : Word) (next : Byte → Micro) : Micro := .cycle r (.read addr) .keep fun o => next o.byte

/-- A cycle that reads at `PC` (R84, R520). -/
def fetchAt (r : Regs) (next : Byte → Micro) : Micro := .cycle r (.fetch r.pc) .keep fun o => next o.byte

/-- A cycle that writes `v` to `addr` (R81). -/
def wr (r : Regs) (addr : Word) (v : Byte) (next : Micro) : Micro := .cycle r (.write addr v) .keep fun _ => next

/-- The rest of a script after the cycles that showed `seen`. -/
def resume : Micro → List Obs → Micro
  | m, [] => m
  | .cycle _ _ _ next, o :: os => resume (next o) os
  | .done r, _ :: _ => .done r
  | .refuse e, _ :: _ => .refuse e

end Sys2Proof.Machine
end

