-- ==== Sys2Proof/Machine/Operands.lean ====
section
/-! DEFINITION. Every operand form that names memory (R127 to R134), the addresses it computes, and the cycles that compute
them (R523, R525, R526, R527). -/

namespace Sys2Proof.Machine

/-- The operand forms with an effective address (R123), with the operand bytes of the encoding. -/
inductive Operand where
  | zp (z : Byte)
  | zpx (z : Byte)
  | zpy (z : Byte)
  | abs (a : Word)
  | abx (a : Word)
  | aby (a : Word)
  | izx (z : Byte)
  | izy (z : Byte)
  deriving DecidableEq, Repr

/-- A base address plus an index, mod 2^16 (R131, R132, R134). -/
def indexed (base : Word) (i : Byte) : Word := base + zext16 i

/-- The address whose low byte has the index added and whose high byte has no carry yet (R525: `R {hi, l}`). -/
def unfixed (base : Word) (i : Byte) : Word := wordOf (hiByte base) (loByte base + i)

/-- `page_crossed` (R131): the two addresses lie in different pages. -/
def pageCrossed (base ea : Word) : Bool := hiByte ea != hiByte base

/-- The effective address of an operand form (R127 to R134), for the registers and the bytes in memory. -/
def effectiveAddress (o : Operand) (r : Regs) (byteAt : Word → Byte) : Word :=
  match o with
  | .zp z => zext16 z
  | .zpx z => zext16 (z + r.x)
  | .zpy z => zext16 (z + r.y)
  | .abs a => a
  | .abx a => indexed a r.x
  | .aby a => indexed a r.y
  | .izx z => wordOf (byteAt (zext16 (z + r.x + 1))) (byteAt (zext16 (z + r.x)))
  | .izy z => indexed (wordOf (byteAt (zext16 (z + 1))) (byteAt (zext16 z))) r.y

/-- The end of an indexed address computation (R525, R526): the dummy read of the un-carried address happens on a page
cross, and always in a store or a read-modify-write. -/
def indexedCycles (base : Word) (i : Byte) (always : Bool) (r : Regs) (next : Word → Micro) : Micro :=
  if always || pageCrossed base (indexed base i) then rd r (unfixed base i) fun _ => next (indexed base i)
  else next (indexed base i)

/-- The cycles of an operand form between its operand bytes and its access (R523, R525, R526). `always` is true for a store or
a read-modify-write, which never skip the dummy read of an indexed form. -/
def addressCycles (o : Operand) (always : Bool) (r : Regs) (next : Word → Micro) : Micro :=
  match o with
  | .zp z => next (zext16 z)
  | .zpx z => rd r (zext16 z) fun _ => next (zext16 (z + r.x))
  | .zpy z => rd r (zext16 z) fun _ => next (zext16 (z + r.y))
  | .abs a => next a
  | .abx a => indexedCycles a r.x always r next
  | .aby a => indexedCycles a r.y always r next
  | .izx z =>
    rd r (zext16 z) fun _ => rd r (zext16 (z + r.x)) fun lo => rd r (zext16 (z + r.x + 1)) fun hi => next (wordOf hi lo)
  | .izy z =>
    rd r (zext16 z) fun lo => rd r (zext16 (z + 1)) fun hi => indexedCycles (wordOf hi lo) r.y always r next

/-- An instruction that reads its operand byte and turns the registers into `f M` (R14, R523, R525). -/
def readOperand (o : Operand) (r : Regs) (f : Byte → Regs) : Micro :=
  addressCycles o false r fun ea => rd r ea fun m => .done (f m)

/-- An instruction that stores a byte at its effective address (R150, R523, R526). -/
def writeOperand (o : Operand) (r : Regs) (v : Byte) : Micro :=
  addressCycles o true r fun ea => wr r ea v (.done r)

/-- A read-modify-write instruction (R78, R230, R527): the read, the write of the old value, the write of the new one. -/
def modifyOperand (o : Operand) (r : Regs) (f : Byte → Flags → Modified) : Micro :=
  addressCycles o true r fun ea => rd r ea fun v =>
    wr r ea v (wr r ea (f v r.p).byte (.done { r with p := (f v r.p).p }))

/-- An implied or accumulator instruction (R522): one dummy read of the next byte, and the operation in that cycle. -/
def implied (r : Regs) (r' : Regs) : Micro := fetchAt r fun _ => .done r'

end Sys2Proof.Machine
end

