-- ==== Sys2Proof/Machine/Ops.lean ====
section
/-! DEFINITION. The named operations of the machine: one clock of every component (R470), a script run to its end, the stack
(R180 to R182), branches (R531), and taking an interrupt and returning from one (R310, R312, R530). -/

namespace Sys2Proof.Machine

/-! ## One clock (R470) -/

/-- The host inputs of the next clock: the head of the queue, or the levels held when the queue is empty (R483, log entry 8). -/
def nextInputs (s : State) : HostInputs := s.inputs.headD s.inp

/-- Samples the host inputs of this clock (R483). -/
def sampleInputs (s : State) : State := s.withInputs (nextInputs s) s.inputs.tail

/-- The video/audio chip's part of a clock (R420), its outputs given to the sink (R482). -/
def vicPhase (s : State) : Result State :=
  andThen (vicCycle s.cfg s.mem s.clock s.vic) fun o => .next ((s.withVic o.1).emit o.2)

/-- The sample of the NMI line (R304, R520): an inactive-to-active transition sets the pending latch. -/
def sampleNmi (s : State) : State := s.withNmi s.inp.nmi (s.nmiPending || (s.inp.nmi && !s.nmiPrev))

/-- A cycle takes over a pending NMI (R309, R530): cycle 5 of a BRK or IRQ sequence when `brk_hijack` is true. -/
def hijacks (act : NmiAct) (s : State) : Bool :=
  match act with
  | .hijack => s.cfg.brkHijack && s.nmiPending
  | _ => false

/-- The pending NMI after a cycle's act on it (R306, R530). -/
def actOnNmi (act : NmiAct) (s : State) : State :=
  match act with
  | .keep => s
  | .enter => s.withNmiPending false
  | .hijack => if hijacks .hijack s then s.withNmiPending false else s

/-- The bus access of a processor cycle (R520): the byte transferred, and the state after it. -/
def busAccess (b : BusOp) (s : State) : Result (Byte × State) :=
  match b with
  | .none => .next (0#8, s)
  | .read a => busRead a s
  | .fetch a => busFetch a s
  | .write a v => andThen (busWrite a v s) fun s' => .next (v, s')

/-- The processor's part of a clock (R520): the NMI sample, then the cycle's bus access. -/
def cpuPhase (b : BusOp) (act : NmiAct) (s : State) : Result (Obs × State) :=
  let s1 := sampleNmi s
  andThen (busAccess b (actOnNmi act s1)) fun o => .next (⟨o.1, hijacks act s1⟩, o.2)

/-- The timer chips' part of a clock (R368, R470): A, then B; then the clock is counted. -/
def timersPhase (s : State) : State :=
  ((s.withViaA (viaCycle s.inp.a s.viaA)).withViaB (viaCycle s.inp.b s.viaB)).tick

/-- One clock of the whole machine in the order of R470: the inputs, the video/audio chip, the processor's cycle, timer
chip A, timer chip B. The peripheral acts through the next clock's inputs (R482). -/
def clock (b : BusOp) (act : NmiAct) (s : State) : Result (Obs × State) :=
  andThen (vicPhase (sampleInputs s)) fun s1 =>
  andThen (cpuPhase b act s1) fun o => .next (o.1, timersPhase o.2)

/-- Runs a script to its end, one clock a cycle (R472): the registers after the last cycle are the script's. -/
def runMicro : Micro → State → Result State
  | .done r, s => .next (s.withRegs r)
  | .refuse e, _ => .refused e
  | .cycle r b act next, s => andThen (clock b act (s.withRegs r)) fun o => runMicro (next o.1) o.2

/-! ## Registers -/

/-- Writes A and sets N and Z from it (R150). -/
def loadA (v : Byte) (r : Regs) : Regs := { r with a := v, p := setNZ v r.p }

/-- Writes X and sets N and Z from it (R150). -/
def loadX (v : Byte) (r : Regs) : Regs := { r with x := v, p := setNZ v r.p }

/-- Writes Y and sets N and Z from it (R150). -/
def loadY (v : Byte) (r : Regs) : Regs := { r with y := v, p := setNZ v r.p }

/-- Adds or subtracts: A gets the result, and N, V, Z, C are written (R197, R198). -/
def applySum (o : Sum) (r : Regs) : Regs := { r with a := o.result, p := sumFlags o r.p }

/-- `ADC` of an operand byte (R197). -/
def adcRegs (m : Byte) (r : Regs) : Regs :=
  applySum (if r.p.d then addDec r.a m r.p.c else addBin r.a m r.p.c) r

/-- `SBC` of an operand byte (R198). -/
def sbcRegs (m : Byte) (r : Regs) : Regs :=
  applySum (if r.p.d then subDec r.a m r.p.c else subBin r.a m r.p.c) r

/-- A compare of a register's value with an operand byte (R202 to R204): only flags change. -/
def compareRegs (a m : Byte) (r : Regs) : Regs := { r with p := compareFlags a m r.p }

/-- A shift or rotate of A (R230). -/
def modifyA (f : Byte → Flags → Modified) (r : Regs) : Regs := { r with a := (f r.a r.p).byte, p := (f r.a r.p).p }

/-! ## The stack (R180 to R182) -/

/-- The registers after one push: `S` decremented, wrapping in page 1 (R180). -/
def pushed (r : Regs) : Regs := { r with s := r.s - 1 }

/-- The registers after one pull: `S` incremented, wrapping in page 1 (R181). -/
def pulled (r : Regs) : Regs := { r with s := r.s + 1 }

/-- One cycle that pushes `v` (R180, R529). -/
def push (r : Regs) (v : Byte) (next : Regs → Micro) : Micro := wr r (stackAddr r.s) v (next (pushed r))

/-- The dummy stack read that comes before a pull, with `S` incremented after it (R529). -/
def prepull (r : Regs) (next : Regs → Micro) : Micro := rd r (stackAddr r.s) fun _ => next (pulled r)

/-- The push of a word, high byte first (R182). -/
def pushWord (r : Regs) (w : Word) (next : Regs → Micro) : Micro :=
  push r (hiByte w) fun r => push r (loByte w) next

/-! ## Branches (R240, R531) -/

/-- The target of a branch whose next instruction is at `pc` (R135). -/
def branchTarget (pc : Word) (d : Byte) : Word := pc + sext16 d

/-- The program counter of a branch before its high byte is fixed: `PCL` has the offset added, `PCH` is the old one (R531). -/
def branchUnfixed (pc : Word) (d : Byte) : Word := wordOf (hiByte pc) (loByte pc + d)

/-- The cycles of a branch after its operand (R240, R531). The dummy read with the wrong high byte is a `MemRead`, not a
fetch (log entry 16). -/
def branchCycles (taken : Bool) (d : Byte) (r : Regs) : Micro :=
  if taken then
    fetchAt r fun _ =>
      if pageCrossed r.pc (branchTarget r.pc d) then
        rd { r with pc := branchUnfixed r.pc d } (branchUnfixed r.pc d) fun _ =>
          .done { r with pc := branchTarget r.pc d }
      else .done { r with pc := branchTarget r.pc d }
  else .done r

/-! ## Taking an interrupt, and returning from one (R310, R312, R530) -/

/-- The NMI vector (R94). -/
def nmiVector : Word := 0xFFFA#16

/-- The reset vector (R94). -/
def resetVector : Word := 0xFFFC#16

/-- The IRQ and BRK vector (R94). -/
def irqVector : Word := 0xFFFE#16

/-- The flags with I set; D keeps its value (R310). -/
def maskIrq (r : Regs) : Regs := { r with p := { r.p with i := true } }

/-- Cycles 6 and 7 of an entry (R530): the vector's low byte, with I set, then its high byte into PC. -/
def loadVector (r : Regs) (vector : Word) : Micro :=
  rd r vector fun lo => rd (maskIrq r) (vector + 1) fun hi => .done { maskIrq r with pc := wordOf hi lo }

/-- Taking an interrupt (R310, R530), from cycle 3 on, shared by IRQ, NMI and BRK: PC and P are pushed, I is set and PC comes
from the vector. `b` is the pushed B bit. A sequence whose `act` is `hijack` takes the NMI vector when its cycle 5 took
over a pending NMI (R309). -/
def takeInterrupt (r : Regs) (b : Bool) (vector : Word) (act : NmiAct) : Micro :=
  pushWord r r.pc fun r =>
    .cycle r (.write (stackAddr r.s) (packP r.p b)) act fun o =>
      loadVector (pushed r) (if o.hijacked then nmiVector else vector)

/-- The IRQ sequence (R310, R530): its first two cycles read at PC without advancing it. -/
def irqMicro (r : Regs) : Micro := fetchAt r fun _ => fetchAt r fun _ => takeInterrupt r false irqVector .hijack

/-- The NMI sequence (R306, R310, R530): it clears `nmi_pending` when it is entered. -/
def nmiMicro (r : Regs) : Micro :=
  .cycle r (.fetch r.pc) .enter fun _ => fetchAt r fun _ => takeInterrupt r false nmiVector .keep

/-- Return from interrupt (R271, R312, R529): P, then PC, from the frame; 1 is not added. -/
def returnFromInterrupt (r : Regs) : Micro :=
  fetchAt r fun _ => prepull r fun r =>
    rd r (stackAddr r.s) fun p =>
      let r1 : Regs := pulled { r with p := unpackP p }
      rd r1 (stackAddr r1.s) fun lo =>
        rd (pulled r1) (stackAddr (pulled r1).s) fun hi => .done { pulled r1 with pc := wordOf hi lo }

/-! ## Reset (R500) -/

/-- `RESETSEQ` (R500): five silent cycles, then the reset vector, with I set in cycle 6. -/
def resetMicro (r : Regs) : Micro :=
  let idle (next : Micro) : Micro := .cycle r .none .keep fun _ => next
  idle (idle (idle (idle (idle (loadVector r resetVector)))))

end Sys2Proof.Machine
end

