-- ==== Sys2Proof/Machine/Arith.lean ====
section
/-! DEFINITION. Addition and subtraction, binary and decimal (R197, R198): for each instruction the script of its cycles after the fetch of its bytes (R520), and its
meaning, the script run to its end. -/

namespace Sys2Proof.Machine

/-- The script of `ADC ($nn,X)` (`$61`, R197, mode R133). -/
def microAdcIzx (z : Byte) (r : Regs) : Micro := readOperand (.izx z) r fun m => adcRegs m r

/-- `ADC ($nn,X)` (`$61`, R197). -/
def execAdcIzx (z : Byte) (s : State) : Result State := runMicro (microAdcIzx z s.regs) s

/-- The script of `ADC $nn` (`$65`, R197, mode R127). -/
def microAdcZp (z : Byte) (r : Regs) : Micro := readOperand (.zp z) r fun m => adcRegs m r

/-- `ADC $nn` (`$65`, R197). -/
def execAdcZp (z : Byte) (s : State) : Result State := runMicro (microAdcZp z s.regs) s

/-- The script of `ADC #$nn` (`$69`, R197, mode R126). -/
def microAdcImm (v : Byte) (r : Regs) : Micro := .done (adcRegs v r)

/-- `ADC #$nn` (`$69`, R197). -/
def execAdcImm (v : Byte) (s : State) : Result State := runMicro (microAdcImm v s.regs) s

/-- The script of `ADC $nnnn` (`$6D`, R197, mode R130). -/
def microAdcAbs (a : Word) (r : Regs) : Micro := readOperand (.abs a) r fun m => adcRegs m r

/-- `ADC $nnnn` (`$6D`, R197). -/
def execAdcAbs (a : Word) (s : State) : Result State := runMicro (microAdcAbs a s.regs) s

/-- The script of `ADC ($nn),Y` (`$71`, R197, mode R134). -/
def microAdcIzy (z : Byte) (r : Regs) : Micro := readOperand (.izy z) r fun m => adcRegs m r

/-- `ADC ($nn),Y` (`$71`, R197). -/
def execAdcIzy (z : Byte) (s : State) : Result State := runMicro (microAdcIzy z s.regs) s

/-- The script of `ADC $nn,X` (`$75`, R197, mode R128). -/
def microAdcZpx (z : Byte) (r : Regs) : Micro := readOperand (.zpx z) r fun m => adcRegs m r

/-- `ADC $nn,X` (`$75`, R197). -/
def execAdcZpx (z : Byte) (s : State) : Result State := runMicro (microAdcZpx z s.regs) s

/-- The script of `ADC $nnnn,Y` (`$79`, R197, mode R132). -/
def microAdcAby (a : Word) (r : Regs) : Micro := readOperand (.aby a) r fun m => adcRegs m r

/-- `ADC $nnnn,Y` (`$79`, R197). -/
def execAdcAby (a : Word) (s : State) : Result State := runMicro (microAdcAby a s.regs) s

/-- The script of `ADC $nnnn,X` (`$7D`, R197, mode R131). -/
def microAdcAbx (a : Word) (r : Regs) : Micro := readOperand (.abx a) r fun m => adcRegs m r

/-- `ADC $nnnn,X` (`$7D`, R197). -/
def execAdcAbx (a : Word) (s : State) : Result State := runMicro (microAdcAbx a s.regs) s

/-- The script of `SBC ($nn,X)` (`$E1`, R198, mode R133). -/
def microSbcIzx (z : Byte) (r : Regs) : Micro := readOperand (.izx z) r fun m => sbcRegs m r

/-- `SBC ($nn,X)` (`$E1`, R198). -/
def execSbcIzx (z : Byte) (s : State) : Result State := runMicro (microSbcIzx z s.regs) s

/-- The script of `SBC $nn` (`$E5`, R198, mode R127). -/
def microSbcZp (z : Byte) (r : Regs) : Micro := readOperand (.zp z) r fun m => sbcRegs m r

/-- `SBC $nn` (`$E5`, R198). -/
def execSbcZp (z : Byte) (s : State) : Result State := runMicro (microSbcZp z s.regs) s

/-- The script of `SBC #$nn` (`$E9`, R198, mode R126). -/
def microSbcImm (v : Byte) (r : Regs) : Micro := .done (sbcRegs v r)

/-- `SBC #$nn` (`$E9`, R198). -/
def execSbcImm (v : Byte) (s : State) : Result State := runMicro (microSbcImm v s.regs) s

/-- The script of `SBC $nnnn` (`$ED`, R198, mode R130). -/
def microSbcAbs (a : Word) (r : Regs) : Micro := readOperand (.abs a) r fun m => sbcRegs m r

/-- `SBC $nnnn` (`$ED`, R198). -/
def execSbcAbs (a : Word) (s : State) : Result State := runMicro (microSbcAbs a s.regs) s

/-- The script of `SBC ($nn),Y` (`$F1`, R198, mode R134). -/
def microSbcIzy (z : Byte) (r : Regs) : Micro := readOperand (.izy z) r fun m => sbcRegs m r

/-- `SBC ($nn),Y` (`$F1`, R198). -/
def execSbcIzy (z : Byte) (s : State) : Result State := runMicro (microSbcIzy z s.regs) s

/-- The script of `SBC $nn,X` (`$F5`, R198, mode R128). -/
def microSbcZpx (z : Byte) (r : Regs) : Micro := readOperand (.zpx z) r fun m => sbcRegs m r

/-- `SBC $nn,X` (`$F5`, R198). -/
def execSbcZpx (z : Byte) (s : State) : Result State := runMicro (microSbcZpx z s.regs) s

/-- The script of `SBC $nnnn,Y` (`$F9`, R198, mode R132). -/
def microSbcAby (a : Word) (r : Regs) : Micro := readOperand (.aby a) r fun m => sbcRegs m r

/-- `SBC $nnnn,Y` (`$F9`, R198). -/
def execSbcAby (a : Word) (s : State) : Result State := runMicro (microSbcAby a s.regs) s

/-- The script of `SBC $nnnn,X` (`$FD`, R198, mode R131). -/
def microSbcAbx (a : Word) (r : Regs) : Micro := readOperand (.abx a) r fun m => sbcRegs m r

/-- `SBC $nnnn,X` (`$FD`, R198). -/
def execSbcAbx (a : Word) (s : State) : Result State := runMicro (microSbcAbx a s.regs) s

end Sys2Proof.Machine
end

