-- ==== Sys2Proof/Machine/Branch.lean ====
section
/-! DEFINITION. Conditional branches (R240 to R248, R531): for each instruction the script of its cycles after the fetch of its bytes (R520), and its
meaning, the script run to its end. -/

namespace Sys2Proof.Machine

/-- The script of `BCC label` (`$90`, R241, mode R135). -/
def microBcc (d : Byte) (r : Regs) : Micro := branchCycles (!r.p.c) d r

/-- `BCC label` (`$90`, R241). -/
def execBcc (d : Byte) (s : State) : Result State := runMicro (microBcc d s.regs) s

/-- The script of `BCS label` (`$B0`, R242, mode R135). -/
def microBcs (d : Byte) (r : Regs) : Micro := branchCycles (r.p.c) d r

/-- `BCS label` (`$B0`, R242). -/
def execBcs (d : Byte) (s : State) : Result State := runMicro (microBcs d s.regs) s

/-- The script of `BEQ label` (`$F0`, R243, mode R135). -/
def microBeq (d : Byte) (r : Regs) : Micro := branchCycles (r.p.z) d r

/-- `BEQ label` (`$F0`, R243). -/
def execBeq (d : Byte) (s : State) : Result State := runMicro (microBeq d s.regs) s

/-- The script of `BNE label` (`$D0`, R244, mode R135). -/
def microBne (d : Byte) (r : Regs) : Micro := branchCycles (!r.p.z) d r

/-- `BNE label` (`$D0`, R244). -/
def execBne (d : Byte) (s : State) : Result State := runMicro (microBne d s.regs) s

/-- The script of `BMI label` (`$30`, R245, mode R135). -/
def microBmi (d : Byte) (r : Regs) : Micro := branchCycles (r.p.n) d r

/-- `BMI label` (`$30`, R245). -/
def execBmi (d : Byte) (s : State) : Result State := runMicro (microBmi d s.regs) s

/-- The script of `BPL label` (`$10`, R246, mode R135). -/
def microBpl (d : Byte) (r : Regs) : Micro := branchCycles (!r.p.n) d r

/-- `BPL label` (`$10`, R246). -/
def execBpl (d : Byte) (s : State) : Result State := runMicro (microBpl d s.regs) s

/-- The script of `BVC label` (`$50`, R247, mode R135). -/
def microBvc (d : Byte) (r : Regs) : Micro := branchCycles (!r.p.v) d r

/-- `BVC label` (`$50`, R247). -/
def execBvc (d : Byte) (s : State) : Result State := runMicro (microBvc d s.regs) s

/-- The script of `BVS label` (`$70`, R248, mode R135). -/
def microBvs (d : Byte) (r : Regs) : Micro := branchCycles (r.p.v) d r

/-- `BVS label` (`$70`, R248). -/
def execBvs (d : Byte) (s : State) : Result State := runMicro (microBvs d s.regs) s

end Sys2Proof.Machine
end

