-- ==== Sys2Proof/Machine/Compare.lean ====
section
/-! DEFINITION. Compares and the bit test (R202 to R205): for each instruction the script of its cycles after the fetch of its bytes (R520), and its
meaning, the script run to its end. -/

namespace Sys2Proof.Machine

/-- The script of `CMP ($nn,X)` (`$C1`, R202, mode R133). -/
def microCmpIzx (z : Byte) (r : Regs) : Micro := readOperand (.izx z) r fun m => compareRegs r.a m r

/-- `CMP ($nn,X)` (`$C1`, R202). -/
def execCmpIzx (z : Byte) (s : State) : Result State := runMicro (microCmpIzx z s.regs) s

/-- The script of `CMP $nn` (`$C5`, R202, mode R127). -/
def microCmpZp (z : Byte) (r : Regs) : Micro := readOperand (.zp z) r fun m => compareRegs r.a m r

/-- `CMP $nn` (`$C5`, R202). -/
def execCmpZp (z : Byte) (s : State) : Result State := runMicro (microCmpZp z s.regs) s

/-- The script of `CMP #$nn` (`$C9`, R202, mode R126). -/
def microCmpImm (v : Byte) (r : Regs) : Micro := .done (compareRegs r.a v r)

/-- `CMP #$nn` (`$C9`, R202). -/
def execCmpImm (v : Byte) (s : State) : Result State := runMicro (microCmpImm v s.regs) s

/-- The script of `CMP $nnnn` (`$CD`, R202, mode R130). -/
def microCmpAbs (a : Word) (r : Regs) : Micro := readOperand (.abs a) r fun m => compareRegs r.a m r

/-- `CMP $nnnn` (`$CD`, R202). -/
def execCmpAbs (a : Word) (s : State) : Result State := runMicro (microCmpAbs a s.regs) s

/-- The script of `CMP ($nn),Y` (`$D1`, R202, mode R134). -/
def microCmpIzy (z : Byte) (r : Regs) : Micro := readOperand (.izy z) r fun m => compareRegs r.a m r

/-- `CMP ($nn),Y` (`$D1`, R202). -/
def execCmpIzy (z : Byte) (s : State) : Result State := runMicro (microCmpIzy z s.regs) s

/-- The script of `CMP $nn,X` (`$D5`, R202, mode R128). -/
def microCmpZpx (z : Byte) (r : Regs) : Micro := readOperand (.zpx z) r fun m => compareRegs r.a m r

/-- `CMP $nn,X` (`$D5`, R202). -/
def execCmpZpx (z : Byte) (s : State) : Result State := runMicro (microCmpZpx z s.regs) s

/-- The script of `CMP $nnnn,Y` (`$D9`, R202, mode R132). -/
def microCmpAby (a : Word) (r : Regs) : Micro := readOperand (.aby a) r fun m => compareRegs r.a m r

/-- `CMP $nnnn,Y` (`$D9`, R202). -/
def execCmpAby (a : Word) (s : State) : Result State := runMicro (microCmpAby a s.regs) s

/-- The script of `CMP $nnnn,X` (`$DD`, R202, mode R131). -/
def microCmpAbx (a : Word) (r : Regs) : Micro := readOperand (.abx a) r fun m => compareRegs r.a m r

/-- `CMP $nnnn,X` (`$DD`, R202). -/
def execCmpAbx (a : Word) (s : State) : Result State := runMicro (microCmpAbx a s.regs) s

/-- The script of `CPX #$nn` (`$E0`, R203, mode R126). -/
def microCpxImm (v : Byte) (r : Regs) : Micro := .done (compareRegs r.x v r)

/-- `CPX #$nn` (`$E0`, R203). -/
def execCpxImm (v : Byte) (s : State) : Result State := runMicro (microCpxImm v s.regs) s

/-- The script of `CPX $nn` (`$E4`, R203, mode R127). -/
def microCpxZp (z : Byte) (r : Regs) : Micro := readOperand (.zp z) r fun m => compareRegs r.x m r

/-- `CPX $nn` (`$E4`, R203). -/
def execCpxZp (z : Byte) (s : State) : Result State := runMicro (microCpxZp z s.regs) s

/-- The script of `CPX $nnnn` (`$EC`, R203, mode R130). -/
def microCpxAbs (a : Word) (r : Regs) : Micro := readOperand (.abs a) r fun m => compareRegs r.x m r

/-- `CPX $nnnn` (`$EC`, R203). -/
def execCpxAbs (a : Word) (s : State) : Result State := runMicro (microCpxAbs a s.regs) s

/-- The script of `CPY #$nn` (`$C0`, R204, mode R126). -/
def microCpyImm (v : Byte) (r : Regs) : Micro := .done (compareRegs r.y v r)

/-- `CPY #$nn` (`$C0`, R204). -/
def execCpyImm (v : Byte) (s : State) : Result State := runMicro (microCpyImm v s.regs) s

/-- The script of `CPY $nn` (`$C4`, R204, mode R127). -/
def microCpyZp (z : Byte) (r : Regs) : Micro := readOperand (.zp z) r fun m => compareRegs r.y m r

/-- `CPY $nn` (`$C4`, R204). -/
def execCpyZp (z : Byte) (s : State) : Result State := runMicro (microCpyZp z s.regs) s

/-- The script of `CPY $nnnn` (`$CC`, R204, mode R130). -/
def microCpyAbs (a : Word) (r : Regs) : Micro := readOperand (.abs a) r fun m => compareRegs r.y m r

/-- `CPY $nnnn` (`$CC`, R204). -/
def execCpyAbs (a : Word) (s : State) : Result State := runMicro (microCpyAbs a s.regs) s

/-- The script of `BIT $nn` (`$24`, R205, mode R127). -/
def microBitZp (z : Byte) (r : Regs) : Micro := readOperand (.zp z) r fun m => { r with p := bitFlags r.a m r.p }

/-- `BIT $nn` (`$24`, R205). -/
def execBitZp (z : Byte) (s : State) : Result State := runMicro (microBitZp z s.regs) s

/-- The script of `BIT $nnnn` (`$2C`, R205, mode R130). -/
def microBitAbs (a : Word) (r : Regs) : Micro := readOperand (.abs a) r fun m => { r with p := bitFlags r.a m r.p }

/-- `BIT $nnnn` (`$2C`, R205). -/
def execBitAbs (a : Word) (s : State) : Result State := runMicro (microBitAbs a s.regs) s

end Sys2Proof.Machine
end

