-- ==== Sys2Proof/Machine/IncDec.lean ====
section
/-! DEFINITION. Increments and decrements (R206 to R211): for each instruction the script of its cycles after the fetch of its bytes (R520), and its
meaning, the script run to its end. -/

namespace Sys2Proof.Machine

/-- The script of `INC $nn` (`$E6`, R206, mode R127). -/
def microIncZp (z : Byte) (r : Regs) : Micro := modifyOperand (.zp z) r incByte

/-- `INC $nn` (`$E6`, R206). -/
def execIncZp (z : Byte) (s : State) : Result State := runMicro (microIncZp z s.regs) s

/-- The script of `INC $nnnn` (`$EE`, R206, mode R130). -/
def microIncAbs (a : Word) (r : Regs) : Micro := modifyOperand (.abs a) r incByte

/-- `INC $nnnn` (`$EE`, R206). -/
def execIncAbs (a : Word) (s : State) : Result State := runMicro (microIncAbs a s.regs) s

/-- The script of `INC $nn,X` (`$F6`, R206, mode R128). -/
def microIncZpx (z : Byte) (r : Regs) : Micro := modifyOperand (.zpx z) r incByte

/-- `INC $nn,X` (`$F6`, R206). -/
def execIncZpx (z : Byte) (s : State) : Result State := runMicro (microIncZpx z s.regs) s

/-- The script of `INC $nnnn,X` (`$FE`, R206, mode R131). -/
def microIncAbx (a : Word) (r : Regs) : Micro := modifyOperand (.abx a) r incByte

/-- `INC $nnnn,X` (`$FE`, R206). -/
def execIncAbx (a : Word) (s : State) : Result State := runMicro (microIncAbx a s.regs) s

/-- The script of `DEC $nn` (`$C6`, R207, mode R127). -/
def microDecZp (z : Byte) (r : Regs) : Micro := modifyOperand (.zp z) r decByte

/-- `DEC $nn` (`$C6`, R207). -/
def execDecZp (z : Byte) (s : State) : Result State := runMicro (microDecZp z s.regs) s

/-- The script of `DEC $nnnn` (`$CE`, R207, mode R130). -/
def microDecAbs (a : Word) (r : Regs) : Micro := modifyOperand (.abs a) r decByte

/-- `DEC $nnnn` (`$CE`, R207). -/
def execDecAbs (a : Word) (s : State) : Result State := runMicro (microDecAbs a s.regs) s

/-- The script of `DEC $nn,X` (`$D6`, R207, mode R128). -/
def microDecZpx (z : Byte) (r : Regs) : Micro := modifyOperand (.zpx z) r decByte

/-- `DEC $nn,X` (`$D6`, R207). -/
def execDecZpx (z : Byte) (s : State) : Result State := runMicro (microDecZpx z s.regs) s

/-- The script of `DEC $nnnn,X` (`$DE`, R207, mode R131). -/
def microDecAbx (a : Word) (r : Regs) : Micro := modifyOperand (.abx a) r decByte

/-- `DEC $nnnn,X` (`$DE`, R207). -/
def execDecAbx (a : Word) (s : State) : Result State := runMicro (microDecAbx a s.regs) s

/-- The script of `INX` (`$E8`, R208, mode R124). -/
def microInx (r : Regs) : Micro := implied r (loadX (r.x + 1) r)

/-- `INX` (`$E8`, R208). -/
def execInx (s : State) : Result State := runMicro (microInx s.regs) s

/-- The script of `INY` (`$C8`, R209, mode R124). -/
def microIny (r : Regs) : Micro := implied r (loadY (r.y + 1) r)

/-- `INY` (`$C8`, R209). -/
def execIny (s : State) : Result State := runMicro (microIny s.regs) s

/-- The script of `DEX` (`$CA`, R210, mode R124). -/
def microDex (r : Regs) : Micro := implied r (loadX (r.x - 1) r)

/-- `DEX` (`$CA`, R210). -/
def execDex (s : State) : Result State := runMicro (microDex s.regs) s

/-- The script of `DEY` (`$88`, R211, mode R124). -/
def microDey (r : Regs) : Micro := implied r (loadY (r.y - 1) r)

/-- `DEY` (`$88`, R211). -/
def execDey (s : State) : Result State := runMicro (microDey s.regs) s

end Sys2Proof.Machine
end

