-- ==== Sys2Proof/Machine/Jump.lean ====
section
/-! DEFINITION. Jumps, calls and returns (R249 to R252, R524, R528, R529): for each instruction the script of its cycles after the fetch of its bytes (R520), and its
meaning, the script run to its end. -/

namespace Sys2Proof.Machine

/-- The script of `JMP $nnnn` (`$4C`, R249, mode R130). -/
def microJmpAbs (a : Word) (r : Regs) : Micro := .done { r with pc := a }

/-- `JMP $nnnn` (`$4C`, R249). -/
def execJmpAbs (a : Word) (s : State) : Result State := runMicro (microJmpAbs a s.regs) s

/-- The script of `JMP ($nnnn)` (`$6C`, R250, mode R136). -/
def microJmpInd (a : Word) (r : Regs) : Micro :=
  rd r a fun lo => rd r (wordOf (hiByte a) (loByte a + 1)) fun hi => .done { r with pc := wordOf hi lo }

/-- `JMP ($nnnn)` (`$6C`, R250). -/
def execJmpInd (a : Word) (s : State) : Result State := runMicro (microJmpInd a s.regs) s

/-- The script of `JSR $nnnn` (`$20`, R251, mode R130). -/
def microJsr (a : Word) (r : Regs) : Micro :=
  rd r (stackAddr r.s) fun _ => pushWord r r.pc fun r => fetchAt r fun hi => .done { r with pc := wordOf hi (loByte a) }

/-- `JSR $nnnn` (`$20`, R251). The high operand byte is fetched after the pushes (R528): `a` gives the low byte, the byte then at `PC` the high one (log entry 15). -/
def execJsr (a : Word) (s : State) : Result State := runMicro (microJsr a s.regs) s

/-- The script of `RTS` (`$60`, R252, mode R124). -/
def microRts (r : Regs) : Micro :=
  fetchAt r fun _ => prepull r fun r => rd r (stackAddr r.s) fun lo =>
    rd (pulled r) (stackAddr (pulled r).s) fun hi =>
      let r' : Regs := { pulled r with pc := wordOf hi lo }
      fetchAt r' fun _ => .done { r' with pc := r'.pc + 1 }

/-- `RTS` (`$60`, R252). 1 is added to the pulled address. -/
def execRts (s : State) : Result State := runMicro (microRts s.regs) s

end Sys2Proof.Machine
end

