-- ==== Sys2Proof/Machine/Load.lean ====
section
/-! DEFINITION. Loads (R150 to R153): for each instruction the script of its cycles after the fetch of its bytes (R520), and its
meaning, the script run to its end. -/

namespace Sys2Proof.Machine

/-- The script of `LDA ($nn,X)` (`$A1`, R151, mode R133). -/
def microLdaIzx (z : Byte) (r : Regs) : Micro := readOperand (.izx z) r fun m => loadA m r

/-- `LDA ($nn,X)` (`$A1`, R151). -/
def execLdaIzx (z : Byte) (s : State) : Result State := runMicro (microLdaIzx z s.regs) s

/-- The script of `LDA $nn` (`$A5`, R151, mode R127). -/
def microLdaZp (z : Byte) (r : Regs) : Micro := readOperand (.zp z) r fun m => loadA m r

/-- `LDA $nn` (`$A5`, R151). -/
def execLdaZp (z : Byte) (s : State) : Result State := runMicro (microLdaZp z s.regs) s

/-- The script of `LDA #$nn` (`$A9`, R151, mode R126). -/
def microLdaImm (v : Byte) (r : Regs) : Micro := .done (loadA v r)

/-- `LDA #$nn` (`$A9`, R151). -/
def execLdaImm (v : Byte) (s : State) : Result State := runMicro (microLdaImm v s.regs) s

/-- The script of `LDA $nnnn` (`$AD`, R151, mode R130). -/
def microLdaAbs (a : Word) (r : Regs) : Micro := readOperand (.abs a) r fun m => loadA m r

/-- `LDA $nnnn` (`$AD`, R151). -/
def execLdaAbs (a : Word) (s : State) : Result State := runMicro (microLdaAbs a s.regs) s

/-- The script of `LDA ($nn),Y` (`$B1`, R151, mode R134). -/
def microLdaIzy (z : Byte) (r : Regs) : Micro := readOperand (.izy z) r fun m => loadA m r

/-- `LDA ($nn),Y` (`$B1`, R151). -/
def execLdaIzy (z : Byte) (s : State) : Result State := runMicro (microLdaIzy z s.regs) s

/-- The script of `LDA $nn,X` (`$B5`, R151, mode R128). -/
def microLdaZpx (z : Byte) (r : Regs) : Micro := readOperand (.zpx z) r fun m => loadA m r

/-- `LDA $nn,X` (`$B5`, R151). -/
def execLdaZpx (z : Byte) (s : State) : Result State := runMicro (microLdaZpx z s.regs) s

/-- The script of `LDA $nnnn,Y` (`$B9`, R151, mode R132). -/
def microLdaAby (a : Word) (r : Regs) : Micro := readOperand (.aby a) r fun m => loadA m r

/-- `LDA $nnnn,Y` (`$B9`, R151). -/
def execLdaAby (a : Word) (s : State) : Result State := runMicro (microLdaAby a s.regs) s

/-- The script of `LDA $nnnn,X` (`$BD`, R151, mode R131). -/
def microLdaAbx (a : Word) (r : Regs) : Micro := readOperand (.abx a) r fun m => loadA m r

/-- `LDA $nnnn,X` (`$BD`, R151). -/
def execLdaAbx (a : Word) (s : State) : Result State := runMicro (microLdaAbx a s.regs) s

/-- The script of `LDX #$nn` (`$A2`, R152, mode R126). -/
def microLdxImm (v : Byte) (r : Regs) : Micro := .done (loadX v r)

/-- `LDX #$nn` (`$A2`, R152). -/
def execLdxImm (v : Byte) (s : State) : Result State := runMicro (microLdxImm v s.regs) s

/-- The script of `LDX $nn` (`$A6`, R152, mode R127). -/
def microLdxZp (z : Byte) (r : Regs) : Micro := readOperand (.zp z) r fun m => loadX m r

/-- `LDX $nn` (`$A6`, R152). -/
def execLdxZp (z : Byte) (s : State) : Result State := runMicro (microLdxZp z s.regs) s

/-- The script of `LDX $nnnn` (`$AE`, R152, mode R130). -/
def microLdxAbs (a : Word) (r : Regs) : Micro := readOperand (.abs a) r fun m => loadX m r

/-- `LDX $nnnn` (`$AE`, R152). -/
def execLdxAbs (a : Word) (s : State) : Result State := runMicro (microLdxAbs a s.regs) s

/-- The script of `LDX $nn,Y` (`$B6`, R152, mode R129). -/
def microLdxZpy (z : Byte) (r : Regs) : Micro := readOperand (.zpy z) r fun m => loadX m r

/-- `LDX $nn,Y` (`$B6`, R152). -/
def execLdxZpy (z : Byte) (s : State) : Result State := runMicro (microLdxZpy z s.regs) s

/-- The script of `LDX $nnnn,Y` (`$BE`, R152, mode R132). -/
def microLdxAby (a : Word) (r : Regs) : Micro := readOperand (.aby a) r fun m => loadX m r

/-- `LDX $nnnn,Y` (`$BE`, R152). -/
def execLdxAby (a : Word) (s : State) : Result State := runMicro (microLdxAby a s.regs) s

/-- The script of `LDY #$nn` (`$A0`, R153, mode R126). -/
def microLdyImm (v : Byte) (r : Regs) : Micro := .done (loadY v r)

/-- `LDY #$nn` (`$A0`, R153). -/
def execLdyImm (v : Byte) (s : State) : Result State := runMicro (microLdyImm v s.regs) s

/-- The script of `LDY $nn` (`$A4`, R153, mode R127). -/
def microLdyZp (z : Byte) (r : Regs) : Micro := readOperand (.zp z) r fun m => loadY m r

/-- `LDY $nn` (`$A4`, R153). -/
def execLdyZp (z : Byte) (s : State) : Result State := runMicro (microLdyZp z s.regs) s

/-- The script of `LDY $nnnn` (`$AC`, R153, mode R130). -/
def microLdyAbs (a : Word) (r : Regs) : Micro := readOperand (.abs a) r fun m => loadY m r

/-- `LDY $nnnn` (`$AC`, R153). -/
def execLdyAbs (a : Word) (s : State) : Result State := runMicro (microLdyAbs a s.regs) s

/-- The script of `LDY $nn,X` (`$B4`, R153, mode R128). -/
def microLdyZpx (z : Byte) (r : Regs) : Micro := readOperand (.zpx z) r fun m => loadY m r

/-- `LDY $nn,X` (`$B4`, R153). -/
def execLdyZpx (z : Byte) (s : State) : Result State := runMicro (microLdyZpx z s.regs) s

/-- The script of `LDY $nnnn,X` (`$BC`, R153, mode R131). -/
def microLdyAbx (a : Word) (r : Regs) : Micro := readOperand (.abx a) r fun m => loadY m r

/-- `LDY $nnnn,X` (`$BC`, R153). -/
def execLdyAbx (a : Word) (s : State) : Result State := runMicro (microLdyAbx a s.regs) s

end Sys2Proof.Machine
end

