-- ==== Sys2Proof/Machine/Logic.lean ====
section
/-! DEFINITION. Logic (R199 to R201): for each instruction the script of its cycles after the fetch of its bytes (R520), and its
meaning, the script run to its end. -/

namespace Sys2Proof.Machine

/-- The script of `AND ($nn,X)` (`$21`, R199, mode R133). -/
def microAndIzx (z : Byte) (r : Regs) : Micro := readOperand (.izx z) r fun m => loadA (r.a &&& m) r

/-- `AND ($nn,X)` (`$21`, R199). -/
def execAndIzx (z : Byte) (s : State) : Result State := runMicro (microAndIzx z s.regs) s

/-- The script of `AND $nn` (`$25`, R199, mode R127). -/
def microAndZp (z : Byte) (r : Regs) : Micro := readOperand (.zp z) r fun m => loadA (r.a &&& m) r

/-- `AND $nn` (`$25`, R199). -/
def execAndZp (z : Byte) (s : State) : Result State := runMicro (microAndZp z s.regs) s

/-- The script of `AND #$nn` (`$29`, R199, mode R126). -/
def microAndImm (v : Byte) (r : Regs) : Micro := .done (loadA (r.a &&& v) r)

/-- `AND #$nn` (`$29`, R199). -/
def execAndImm (v : Byte) (s : State) : Result State := runMicro (microAndImm v s.regs) s

/-- The script of `AND $nnnn` (`$2D`, R199, mode R130). -/
def microAndAbs (a : Word) (r : Regs) : Micro := readOperand (.abs a) r fun m => loadA (r.a &&& m) r

/-- `AND $nnnn` (`$2D`, R199). -/
def execAndAbs (a : Word) (s : State) : Result State := runMicro (microAndAbs a s.regs) s

/-- The script of `AND ($nn),Y` (`$31`, R199, mode R134). -/
def microAndIzy (z : Byte) (r : Regs) : Micro := readOperand (.izy z) r fun m => loadA (r.a &&& m) r

/-- `AND ($nn),Y` (`$31`, R199). -/
def execAndIzy (z : Byte) (s : State) : Result State := runMicro (microAndIzy z s.regs) s

/-- The script of `AND $nn,X` (`$35`, R199, mode R128). -/
def microAndZpx (z : Byte) (r : Regs) : Micro := readOperand (.zpx z) r fun m => loadA (r.a &&& m) r

/-- `AND $nn,X` (`$35`, R199). -/
def execAndZpx (z : Byte) (s : State) : Result State := runMicro (microAndZpx z s.regs) s

/-- The script of `AND $nnnn,Y` (`$39`, R199, mode R132). -/
def microAndAby (a : Word) (r : Regs) : Micro := readOperand (.aby a) r fun m => loadA (r.a &&& m) r

/-- `AND $nnnn,Y` (`$39`, R199). -/
def execAndAby (a : Word) (s : State) : Result State := runMicro (microAndAby a s.regs) s

/-- The script of `AND $nnnn,X` (`$3D`, R199, mode R131). -/
def microAndAbx (a : Word) (r : Regs) : Micro := readOperand (.abx a) r fun m => loadA (r.a &&& m) r

/-- `AND $nnnn,X` (`$3D`, R199). -/
def execAndAbx (a : Word) (s : State) : Result State := runMicro (microAndAbx a s.regs) s

/-- The script of `ORA ($nn,X)` (`$01`, R200, mode R133). -/
def microOraIzx (z : Byte) (r : Regs) : Micro := readOperand (.izx z) r fun m => loadA (r.a ||| m) r

/-- `ORA ($nn,X)` (`$01`, R200). -/
def execOraIzx (z : Byte) (s : State) : Result State := runMicro (microOraIzx z s.regs) s

/-- The script of `ORA $nn` (`$05`, R200, mode R127). -/
def microOraZp (z : Byte) (r : Regs) : Micro := readOperand (.zp z) r fun m => loadA (r.a ||| m) r

/-- `ORA $nn` (`$05`, R200). -/
def execOraZp (z : Byte) (s : State) : Result State := runMicro (microOraZp z s.regs) s

/-- The script of `ORA #$nn` (`$09`, R200, mode R126). -/
def microOraImm (v : Byte) (r : Regs) : Micro := .done (loadA (r.a ||| v) r)

/-- `ORA #$nn` (`$09`, R200). -/
def execOraImm (v : Byte) (s : State) : Result State := runMicro (microOraImm v s.regs) s

/-- The script of `ORA $nnnn` (`$0D`, R200, mode R130). -/
def microOraAbs (a : Word) (r : Regs) : Micro := readOperand (.abs a) r fun m => loadA (r.a ||| m) r

/-- `ORA $nnnn` (`$0D`, R200). -/
def execOraAbs (a : Word) (s : State) : Result State := runMicro (microOraAbs a s.regs) s

/-- The script of `ORA ($nn),Y` (`$11`, R200, mode R134). -/
def microOraIzy (z : Byte) (r : Regs) : Micro := readOperand (.izy z) r fun m => loadA (r.a ||| m) r

/-- `ORA ($nn),Y` (`$11`, R200). -/
def execOraIzy (z : Byte) (s : State) : Result State := runMicro (microOraIzy z s.regs) s

/-- The script of `ORA $nn,X` (`$15`, R200, mode R128). -/
def microOraZpx (z : Byte) (r : Regs) : Micro := readOperand (.zpx z) r fun m => loadA (r.a ||| m) r

/-- `ORA $nn,X` (`$15`, R200). -/
def execOraZpx (z : Byte) (s : State) : Result State := runMicro (microOraZpx z s.regs) s

/-- The script of `ORA $nnnn,Y` (`$19`, R200, mode R132). -/
def microOraAby (a : Word) (r : Regs) : Micro := readOperand (.aby a) r fun m => loadA (r.a ||| m) r

/-- `ORA $nnnn,Y` (`$19`, R200). -/
def execOraAby (a : Word) (s : State) : Result State := runMicro (microOraAby a s.regs) s

/-- The script of `ORA $nnnn,X` (`$1D`, R200, mode R131). -/
def microOraAbx (a : Word) (r : Regs) : Micro := readOperand (.abx a) r fun m => loadA (r.a ||| m) r

/-- `ORA $nnnn,X` (`$1D`, R200). -/
def execOraAbx (a : Word) (s : State) : Result State := runMicro (microOraAbx a s.regs) s

/-- The script of `EOR ($nn,X)` (`$41`, R201, mode R133). -/
def microEorIzx (z : Byte) (r : Regs) : Micro := readOperand (.izx z) r fun m => loadA (r.a ^^^ m) r

/-- `EOR ($nn,X)` (`$41`, R201). -/
def execEorIzx (z : Byte) (s : State) : Result State := runMicro (microEorIzx z s.regs) s

/-- The script of `EOR $nn` (`$45`, R201, mode R127). -/
def microEorZp (z : Byte) (r : Regs) : Micro := readOperand (.zp z) r fun m => loadA (r.a ^^^ m) r

/-- `EOR $nn` (`$45`, R201). -/
def execEorZp (z : Byte) (s : State) : Result State := runMicro (microEorZp z s.regs) s

/-- The script of `EOR #$nn` (`$49`, R201, mode R126). -/
def microEorImm (v : Byte) (r : Regs) : Micro := .done (loadA (r.a ^^^ v) r)

/-- `EOR #$nn` (`$49`, R201). -/
def execEorImm (v : Byte) (s : State) : Result State := runMicro (microEorImm v s.regs) s

/-- The script of `EOR $nnnn` (`$4D`, R201, mode R130). -/
def microEorAbs (a : Word) (r : Regs) : Micro := readOperand (.abs a) r fun m => loadA (r.a ^^^ m) r

/-- `EOR $nnnn` (`$4D`, R201). -/
def execEorAbs (a : Word) (s : State) : Result State := runMicro (microEorAbs a s.regs) s

/-- The script of `EOR ($nn),Y` (`$51`, R201, mode R134). -/
def microEorIzy (z : Byte) (r : Regs) : Micro := readOperand (.izy z) r fun m => loadA (r.a ^^^ m) r

/-- `EOR ($nn),Y` (`$51`, R201). -/
def execEorIzy (z : Byte) (s : State) : Result State := runMicro (microEorIzy z s.regs) s

/-- The script of `EOR $nn,X` (`$55`, R201, mode R128). -/
def microEorZpx (z : Byte) (r : Regs) : Micro := readOperand (.zpx z) r fun m => loadA (r.a ^^^ m) r

/-- `EOR $nn,X` (`$55`, R201). -/
def execEorZpx (z : Byte) (s : State) : Result State := runMicro (microEorZpx z s.regs) s

/-- The script of `EOR $nnnn,Y` (`$59`, R201, mode R132). -/
def microEorAby (a : Word) (r : Regs) : Micro := readOperand (.aby a) r fun m => loadA (r.a ^^^ m) r

/-- `EOR $nnnn,Y` (`$59`, R201). -/
def execEorAby (a : Word) (s : State) : Result State := runMicro (microEorAby a s.regs) s

/-- The script of `EOR $nnnn,X` (`$5D`, R201, mode R131). -/
def microEorAbx (a : Word) (r : Regs) : Micro := readOperand (.abx a) r fun m => loadA (r.a ^^^ m) r

/-- `EOR $nnnn,X` (`$5D`, R201). -/
def execEorAbx (a : Word) (s : State) : Result State := runMicro (microEorAbx a s.regs) s

end Sys2Proof.Machine
end

