-- ==== Sys2Proof/Machine/Shift.lean ====
section
/-! DEFINITION. Shifts and rotates (R230 to R234): for each instruction the script of its cycles after the fetch of its bytes (R520), and its
meaning, the script run to its end. -/

namespace Sys2Proof.Machine

/-- The script of `ASL $nn` (`$06`, R231, mode R127). -/
def microAslZp (z : Byte) (r : Regs) : Micro := modifyOperand (.zp z) r aslByte

/-- `ASL $nn` (`$06`, R231). -/
def execAslZp (z : Byte) (s : State) : Result State := runMicro (microAslZp z s.regs) s

/-- The script of `ASL A` (`$0A`, R231, mode R125). -/
def microAslAcc (r : Regs) : Micro := implied r (modifyA aslByte r)

/-- `ASL A` (`$0A`, R231). -/
def execAslAcc (s : State) : Result State := runMicro (microAslAcc s.regs) s

/-- The script of `ASL $nnnn` (`$0E`, R231, mode R130). -/
def microAslAbs (a : Word) (r : Regs) : Micro := modifyOperand (.abs a) r aslByte

/-- `ASL $nnnn` (`$0E`, R231). -/
def execAslAbs (a : Word) (s : State) : Result State := runMicro (microAslAbs a s.regs) s

/-- The script of `ASL $nn,X` (`$16`, R231, mode R128). -/
def microAslZpx (z : Byte) (r : Regs) : Micro := modifyOperand (.zpx z) r aslByte

/-- `ASL $nn,X` (`$16`, R231). -/
def execAslZpx (z : Byte) (s : State) : Result State := runMicro (microAslZpx z s.regs) s

/-- The script of `ASL $nnnn,X` (`$1E`, R231, mode R131). -/
def microAslAbx (a : Word) (r : Regs) : Micro := modifyOperand (.abx a) r aslByte

/-- `ASL $nnnn,X` (`$1E`, R231). -/
def execAslAbx (a : Word) (s : State) : Result State := runMicro (microAslAbx a s.regs) s

/-- The script of `LSR $nn` (`$46`, R232, mode R127). -/
def microLsrZp (z : Byte) (r : Regs) : Micro := modifyOperand (.zp z) r lsrByte

/-- `LSR $nn` (`$46`, R232). -/
def execLsrZp (z : Byte) (s : State) : Result State := runMicro (microLsrZp z s.regs) s

/-- The script of `LSR A` (`$4A`, R232, mode R125). -/
def microLsrAcc (r : Regs) : Micro := implied r (modifyA lsrByte r)

/-- `LSR A` (`$4A`, R232). -/
def execLsrAcc (s : State) : Result State := runMicro (microLsrAcc s.regs) s

/-- The script of `LSR $nnnn` (`$4E`, R232, mode R130). -/
def microLsrAbs (a : Word) (r : Regs) : Micro := modifyOperand (.abs a) r lsrByte

/-- `LSR $nnnn` (`$4E`, R232). -/
def execLsrAbs (a : Word) (s : State) : Result State := runMicro (microLsrAbs a s.regs) s

/-- The script of `LSR $nn,X` (`$56`, R232, mode R128). -/
def microLsrZpx (z : Byte) (r : Regs) : Micro := modifyOperand (.zpx z) r lsrByte

/-- `LSR $nn,X` (`$56`, R232). -/
def execLsrZpx (z : Byte) (s : State) : Result State := runMicro (microLsrZpx z s.regs) s

/-- The script of `LSR $nnnn,X` (`$5E`, R232, mode R131). -/
def microLsrAbx (a : Word) (r : Regs) : Micro := modifyOperand (.abx a) r lsrByte

/-- `LSR $nnnn,X` (`$5E`, R232). -/
def execLsrAbx (a : Word) (s : State) : Result State := runMicro (microLsrAbx a s.regs) s

/-- The script of `ROL $nn` (`$26`, R233, mode R127). -/
def microRolZp (z : Byte) (r : Regs) : Micro := modifyOperand (.zp z) r rolByte

/-- `ROL $nn` (`$26`, R233). -/
def execRolZp (z : Byte) (s : State) : Result State := runMicro (microRolZp z s.regs) s

/-- The script of `ROL A` (`$2A`, R233, mode R125). -/
def microRolAcc (r : Regs) : Micro := implied r (modifyA rolByte r)

/-- `ROL A` (`$2A`, R233). -/
def execRolAcc (s : State) : Result State := runMicro (microRolAcc s.regs) s

/-- The script of `ROL $nnnn` (`$2E`, R233, mode R130). -/
def microRolAbs (a : Word) (r : Regs) : Micro := modifyOperand (.abs a) r rolByte

/-- `ROL $nnnn` (`$2E`, R233). -/
def execRolAbs (a : Word) (s : State) : Result State := runMicro (microRolAbs a s.regs) s

/-- The script of `ROL $nn,X` (`$36`, R233, mode R128). -/
def microRolZpx (z : Byte) (r : Regs) : Micro := modifyOperand (.zpx z) r rolByte

/-- `ROL $nn,X` (`$36`, R233). -/
def execRolZpx (z : Byte) (s : State) : Result State := runMicro (microRolZpx z s.regs) s

/-- The script of `ROL $nnnn,X` (`$3E`, R233, mode R131). -/
def microRolAbx (a : Word) (r : Regs) : Micro := modifyOperand (.abx a) r rolByte

/-- `ROL $nnnn,X` (`$3E`, R233). -/
def execRolAbx (a : Word) (s : State) : Result State := runMicro (microRolAbx a s.regs) s

/-- The script of `ROR $nn` (`$66`, R234, mode R127). -/
def microRorZp (z : Byte) (r : Regs) : Micro := modifyOperand (.zp z) r rorByte

/-- `ROR $nn` (`$66`, R234). -/
def execRorZp (z : Byte) (s : State) : Result State := runMicro (microRorZp z s.regs) s

/-- The script of `ROR A` (`$6A`, R234, mode R125). -/
def microRorAcc (r : Regs) : Micro := implied r (modifyA rorByte r)

/-- `ROR A` (`$6A`, R234). -/
def execRorAcc (s : State) : Result State := runMicro (microRorAcc s.regs) s

/-- The script of `ROR $nnnn` (`$6E`, R234, mode R130). -/
def microRorAbs (a : Word) (r : Regs) : Micro := modifyOperand (.abs a) r rorByte

/-- `ROR $nnnn` (`$6E`, R234). -/
def execRorAbs (a : Word) (s : State) : Result State := runMicro (microRorAbs a s.regs) s

/-- The script of `ROR $nn,X` (`$76`, R234, mode R128). -/
def microRorZpx (z : Byte) (r : Regs) : Micro := modifyOperand (.zpx z) r rorByte

/-- `ROR $nn,X` (`$76`, R234). -/
def execRorZpx (z : Byte) (s : State) : Result State := runMicro (microRorZpx z s.regs) s

/-- The script of `ROR $nnnn,X` (`$7E`, R234, mode R131). -/
def microRorAbx (a : Word) (r : Regs) : Micro := modifyOperand (.abx a) r rorByte

/-- `ROR $nnnn,X` (`$7E`, R234). -/
def execRorAbx (a : Word) (s : State) : Result State := runMicro (microRorAbx a s.regs) s

end Sys2Proof.Machine
end

