-- ==== Sys2Proof/Machine/Stack.lean ====
section
/-! DEFINITION. Stack instructions (R183 to R186, R529): for each instruction the script of its cycles after the fetch of its bytes (R520), and its
meaning, the script run to its end. -/

namespace Sys2Proof.Machine

/-- The script of `PHA` (`$48`, R183, mode R124). -/
def microPha (r : Regs) : Micro := fetchAt r fun _ => push r r.a .done

/-- `PHA` (`$48`, R183). -/
def execPha (s : State) : Result State := runMicro (microPha s.regs) s

/-- The script of `PHP` (`$08`, R184, mode R124). -/
def microPhp (r : Regs) : Micro := fetchAt r fun _ => push r (packP r.p true) .done

/-- `PHP` (`$08`, R184). -/
def execPhp (s : State) : Result State := runMicro (microPhp s.regs) s

/-- The script of `PLA` (`$68`, R185, mode R124). -/
def microPla (r : Regs) : Micro := fetchAt r fun _ => prepull r fun r => rd r (stackAddr r.s) fun v => .done (loadA v r)

/-- `PLA` (`$68`, R185). -/
def execPla (s : State) : Result State := runMicro (microPla s.regs) s

/-- The script of `PLP` (`$28`, R186, mode R124). -/
def microPlp (r : Regs) : Micro := fetchAt r fun _ => prepull r fun r => rd r (stackAddr r.s) fun v => .done { r with p := unpackP v }

/-- `PLP` (`$28`, R186). -/
def execPlp (s : State) : Result State := runMicro (microPlp s.regs) s

end Sys2Proof.Machine
end

