-- ==== Sys2Proof/Machine/Store.lean ====
section
/-! DEFINITION. Stores (R150, R154 to R156): for each instruction the script of its cycles after the fetch of its bytes (R520), and its
meaning, the script run to its end. -/

namespace Sys2Proof.Machine

/-- The script of `STA ($nn,X)` (`$81`, R154, mode R133). -/
def microStaIzx (z : Byte) (r : Regs) : Micro := writeOperand (.izx z) r r.a

/-- `STA ($nn,X)` (`$81`, R154). -/
def execStaIzx (z : Byte) (s : State) : Result State := runMicro (microStaIzx z s.regs) s

/-- The script of `STA $nn` (`$85`, R154, mode R127). -/
def microStaZp (z : Byte) (r : Regs) : Micro := writeOperand (.zp z) r r.a

/-- `STA $nn` (`$85`, R154). -/
def execStaZp (z : Byte) (s : State) : Result State := runMicro (microStaZp z s.regs) s

/-- The script of `STA $nnnn` (`$8D`, R154, mode R130). -/
def microStaAbs (a : Word) (r : Regs) : Micro := writeOperand (.abs a) r r.a

/-- `STA $nnnn` (`$8D`, R154). -/
def execStaAbs (a : Word) (s : State) : Result State := runMicro (microStaAbs a s.regs) s

/-- The script of `STA ($nn),Y` (`$91`, R154, mode R134). -/
def microStaIzy (z : Byte) (r : Regs) : Micro := writeOperand (.izy z) r r.a

/-- `STA ($nn),Y` (`$91`, R154). -/
def execStaIzy (z : Byte) (s : State) : Result State := runMicro (microStaIzy z s.regs) s

/-- The script of `STA $nn,X` (`$95`, R154, mode R128). -/
def microStaZpx (z : Byte) (r : Regs) : Micro := writeOperand (.zpx z) r r.a

/-- `STA $nn,X` (`$95`, R154). -/
def execStaZpx (z : Byte) (s : State) : Result State := runMicro (microStaZpx z s.regs) s

/-- The script of `STA $nnnn,Y` (`$99`, R154, mode R132). -/
def microStaAby (a : Word) (r : Regs) : Micro := writeOperand (.aby a) r r.a

/-- `STA $nnnn,Y` (`$99`, R154). -/
def execStaAby (a : Word) (s : State) : Result State := runMicro (microStaAby a s.regs) s

/-- The script of `STA $nnnn,X` (`$9D`, R154, mode R131). -/
def microStaAbx (a : Word) (r : Regs) : Micro := writeOperand (.abx a) r r.a

/-- `STA $nnnn,X` (`$9D`, R154). -/
def execStaAbx (a : Word) (s : State) : Result State := runMicro (microStaAbx a s.regs) s

/-- The script of `STX $nn` (`$86`, R155, mode R127). -/
def microStxZp (z : Byte) (r : Regs) : Micro := writeOperand (.zp z) r r.x

/-- `STX $nn` (`$86`, R155). -/
def execStxZp (z : Byte) (s : State) : Result State := runMicro (microStxZp z s.regs) s

/-- The script of `STX $nnnn` (`$8E`, R155, mode R130). -/
def microStxAbs (a : Word) (r : Regs) : Micro := writeOperand (.abs a) r r.x

/-- `STX $nnnn` (`$8E`, R155). -/
def execStxAbs (a : Word) (s : State) : Result State := runMicro (microStxAbs a s.regs) s

/-- The script of `STX $nn,Y` (`$96`, R155, mode R129). -/
def microStxZpy (z : Byte) (r : Regs) : Micro := writeOperand (.zpy z) r r.x

/-- `STX $nn,Y` (`$96`, R155). -/
def execStxZpy (z : Byte) (s : State) : Result State := runMicro (microStxZpy z s.regs) s

/-- The script of `STY $nn` (`$84`, R156, mode R127). -/
def microStyZp (z : Byte) (r : Regs) : Micro := writeOperand (.zp z) r r.y

/-- `STY $nn` (`$84`, R156). -/
def execStyZp (z : Byte) (s : State) : Result State := runMicro (microStyZp z s.regs) s

/-- The script of `STY $nnnn` (`$8C`, R156, mode R130). -/
def microStyAbs (a : Word) (r : Regs) : Micro := writeOperand (.abs a) r r.y

/-- `STY $nnnn` (`$8C`, R156). -/
def execStyAbs (a : Word) (s : State) : Result State := runMicro (microStyAbs a s.regs) s

/-- The script of `STY $nn,X` (`$94`, R156, mode R128). -/
def microStyZpx (z : Byte) (r : Regs) : Micro := writeOperand (.zpx z) r r.y

/-- `STY $nn,X` (`$94`, R156). -/
def execStyZpx (z : Byte) (s : State) : Result State := runMicro (microStyZpx z s.regs) s

end Sys2Proof.Machine
end

