-- ==== Sys2Proof/Machine/System.lean ====
section
/-! DEFINITION. Flag instructions, NOP, BRK and RTI (R260 to R271): for each instruction the script of its cycles after the fetch of its bytes (R520), and its
meaning, the script run to its end. -/

namespace Sys2Proof.Machine

/-- The script of `CLC` (`$18`, R260, mode R124). -/
def microClc (r : Regs) : Micro := implied r { r with p := { r.p with c := false } }

/-- `CLC` (`$18`, R260). -/
def execClc (s : State) : Result State := runMicro (microClc s.regs) s

/-- The script of `SEC` (`$38`, R261, mode R124). -/
def microSec (r : Regs) : Micro := implied r { r with p := { r.p with c := true } }

/-- `SEC` (`$38`, R261). -/
def execSec (s : State) : Result State := runMicro (microSec s.regs) s

/-- The script of `CLI` (`$58`, R262, mode R124). -/
def microCli (r : Regs) : Micro := implied r { r with p := { r.p with i := false } }

/-- `CLI` (`$58`, R262). -/
def execCli (s : State) : Result State := runMicro (microCli s.regs) s

/-- The script of `SEI` (`$78`, R263, mode R124). -/
def microSei (r : Regs) : Micro := implied r { r with p := { r.p with i := true } }

/-- `SEI` (`$78`, R263). -/
def execSei (s : State) : Result State := runMicro (microSei s.regs) s

/-- The script of `CLD` (`$D8`, R264, mode R124). -/
def microCld (r : Regs) : Micro := implied r { r with p := { r.p with d := false } }

/-- `CLD` (`$D8`, R264). -/
def execCld (s : State) : Result State := runMicro (microCld s.regs) s

/-- The script of `SED` (`$F8`, R265, mode R124). -/
def microSed (r : Regs) : Micro := implied r { r with p := { r.p with d := true } }

/-- `SED` (`$F8`, R265). -/
def execSed (s : State) : Result State := runMicro (microSed s.regs) s

/-- The script of `CLV` (`$B8`, R266, mode R124). -/
def microClv (r : Regs) : Micro := implied r { r with p := { r.p with v := false } }

/-- `CLV` (`$B8`, R266). -/
def execClv (s : State) : Result State := runMicro (microClv s.regs) s

/-- The script of `NOP` (`$EA`, R267, mode R124). -/
def microNop (r : Regs) : Micro := implied r r

/-- `NOP` (`$EA`, R267). -/
def execNop (s : State) : Result State := runMicro (microNop s.regs) s

/-- The script of `BRK` (`$00`, R270, mode R124). -/
def microBrk (r : Regs) : Micro :=
  fetchAt r fun _ => takeInterrupt { r with pc := r.pc + 1 } true irqVector .hijack

/-- `BRK` (`$00`, R270). The byte after the opcode is fetched and skipped; the frame holds `pc0 + 2` and B = 1. -/
def execBrk (s : State) : Result State := runMicro (microBrk s.regs) s

/-- The script of `RTI` (`$40`, R271, mode R124). -/
def microRti (r : Regs) : Micro := returnFromInterrupt r

/-- `RTI` (`$40`, R271). P, then PC, from the frame; 1 is not added. -/
def execRti (s : State) : Result State := runMicro (microRti s.regs) s

end Sys2Proof.Machine
end

