-- ==== Sys2Proof/Machine/Transfer.lean ====
section
/-! DEFINITION. Register transfers (R150, R157 to R162): for each instruction the script of its cycles after the fetch of its bytes (R520), and its
meaning, the script run to its end. -/

namespace Sys2Proof.Machine

/-- The script of `TAX` (`$AA`, R157, mode R124). -/
def microTax (r : Regs) : Micro := implied r (loadX r.a r)

/-- `TAX` (`$AA`, R157). -/
def execTax (s : State) : Result State := runMicro (microTax s.regs) s

/-- The script of `TAY` (`$A8`, R158, mode R124). -/
def microTay (r : Regs) : Micro := implied r (loadY r.a r)

/-- `TAY` (`$A8`, R158). -/
def execTay (s : State) : Result State := runMicro (microTay s.regs) s

/-- The script of `TXA` (`$8A`, R159, mode R124). -/
def microTxa (r : Regs) : Micro := implied r (loadA r.x r)

/-- `TXA` (`$8A`, R159). -/
def execTxa (s : State) : Result State := runMicro (microTxa s.regs) s

/-- The script of `TYA` (`$98`, R160, mode R124). -/
def microTya (r : Regs) : Micro := implied r (loadA r.y r)

/-- `TYA` (`$98`, R160). -/
def execTya (s : State) : Result State := runMicro (microTya s.regs) s

/-- The script of `TSX` (`$BA`, R161, mode R124). -/
def microTsx (r : Regs) : Micro := implied r (loadX r.s r)

/-- `TSX` (`$BA`, R161). -/
def execTsx (s : State) : Result State := runMicro (microTsx s.regs) s

/-- The script of `TXS` (`$9A`, R162, mode R124). -/
def microTxs (r : Regs) : Micro := implied r { r with s := r.x }

/-- `TXS` (`$9A`, R162). -/
def execTxs (s : State) : Result State := runMicro (microTxs s.regs) s

end Sys2Proof.Machine
end

