-- ==== Sys2Proof/Syntax.lean ====
section
/-! DEFINITION. The abstract syntax of the documented instruction set: one constructor for each of the 151 rows of
the opcode table (R120, R139). An operand byte is held as the byte the encoding carries (R126 to R135: an immediate, a
zero-page address, a signed branch offset), an operand word as the word its two bytes make (R130 to R132, R136). Every
operand value of these types has an encoding, so every term of `Instr` is well formed by its type. -/

namespace Sys2Proof

/-- The thirteen addressing modes (R123). -/
inductive Mode where
  | imp | acc | imm | zp | zpx | zpy | abs | abx | aby | izx | izy | rel | ind
  deriving DecidableEq, Repr

/-- The number of operand bytes after the opcode (R123: the mode's length less one). -/
def Mode.operands : Mode → Nat
  | .imp | .acc => 0
  | .imm | .zp | .zpx | .zpy | .izx | .izy | .rel => 1
  | .abs | .abx | .aby | .ind => 2

/-- The documented instructions (R139), in the order of the opcode table: mnemonic, then addressing mode. -/
inductive Instr where
  /-- `$00` BRK: R270, mode R124. -/
  | brk
  /-- `$01` ORA ($nn,X): R200, mode R133. -/
  | oraIzx (z : Byte)
  /-- `$05` ORA $nn: R200, mode R127. -/
  | oraZp (z : Byte)
  /-- `$06` ASL $nn: R231, mode R127. -/
  | aslZp (z : Byte)
  /-- `$08` PHP: R184, mode R124. -/
  | php
  /-- `$09` ORA #$nn: R200, mode R126. -/
  | oraImm (v : Byte)
  /-- `$0A` ASL A: R231, mode R125. -/
  | aslAcc
  /-- `$0D` ORA $nnnn: R200, mode R130. -/
  | oraAbs (a : Word)
  /-- `$0E` ASL $nnnn: R231, mode R130. -/
  | aslAbs (a : Word)
  /-- `$10` BPL label: R246, mode R135. -/
  | bpl (d : Byte)
  /-- `$11` ORA ($nn),Y: R200, mode R134. -/
  | oraIzy (z : Byte)
  /-- `$15` ORA $nn,X: R200, mode R128. -/
  | oraZpx (z : Byte)
  /-- `$16` ASL $nn,X: R231, mode R128. -/
  | aslZpx (z : Byte)
  /-- `$18` CLC: R260, mode R124. -/
  | clc
  /-- `$19` ORA $nnnn,Y: R200, mode R132. -/
  | oraAby (a : Word)
  /-- `$1D` ORA $nnnn,X: R200, mode R131. -/
  | oraAbx (a : Word)
  /-- `$1E` ASL $nnnn,X: R231, mode R131. -/
  | aslAbx (a : Word)
  /-- `$20` JSR $nnnn: R251, mode R130. -/
  | jsr (a : Word)
  /-- `$21` AND ($nn,X): R199, mode R133. -/
  | andIzx (z : Byte)
  /-- `$24` BIT $nn: R205, mode R127. -/
  | bitZp (z : Byte)
  /-- `$25` AND $nn: R199, mode R127. -/
  | andZp (z : Byte)
  /-- `$26` ROL $nn: R233, mode R127. -/
  | rolZp (z : Byte)
  /-- `$28` PLP: R186, mode R124. -/
  | plp
  /-- `$29` AND #$nn: R199, mode R126. -/
  | andImm (v : Byte)
  /-- `$2A` ROL A: R233, mode R125. -/
  | rolAcc
  /-- `$2C` BIT $nnnn: R205, mode R130. -/
  | bitAbs (a : Word)
  /-- `$2D` AND $nnnn: R199, mode R130. -/
  | andAbs (a : Word)
  /-- `$2E` ROL $nnnn: R233, mode R130. -/
  | rolAbs (a : Word)
  /-- `$30` BMI label: R245, mode R135. -/
  | bmi (d : Byte)
  /-- `$31` AND ($nn),Y: R199, mode R134. -/
  | andIzy (z : Byte)
  /-- `$35` AND $nn,X: R199, mode R128. -/
  | andZpx (z : Byte)
  /-- `$36` ROL $nn,X: R233, mode R128. -/
  | rolZpx (z : Byte)
  /-- `$38` SEC: R261, mode R124. -/
  | sec
  /-- `$39` AND $nnnn,Y: R199, mode R132. -/
  | andAby (a : Word)
  /-- `$3D` AND $nnnn,X: R199, mode R131. -/
  | andAbx (a : Word)
  /-- `$3E` ROL $nnnn,X: R233, mode R131. -/
  | rolAbx (a : Word)
  /-- `$40` RTI: R271, mode R124. -/
  | rti
  /-- `$41` EOR ($nn,X): R201, mode R133. -/
  | eorIzx (z : Byte)
  /-- `$45` EOR $nn: R201, mode R127. -/
  | eorZp (z : Byte)
  /-- `$46` LSR $nn: R232, mode R127. -/
  | lsrZp (z : Byte)
  /-- `$48` PHA: R183, mode R124. -/
  | pha
  /-- `$49` EOR #$nn: R201, mode R126. -/
  | eorImm (v : Byte)
  /-- `$4A` LSR A: R232, mode R125. -/
  | lsrAcc
  /-- `$4C` JMP $nnnn: R249, mode R130. -/
  | jmpAbs (a : Word)
  /-- `$4D` EOR $nnnn: R201, mode R130. -/
  | eorAbs (a : Word)
  /-- `$4E` LSR $nnnn: R232, mode R130. -/
  | lsrAbs (a : Word)
  /-- `$50` BVC label: R247, mode R135. -/
  | bvc (d : Byte)
  /-- `$51` EOR ($nn),Y: R201, mode R134. -/
  | eorIzy (z : Byte)
  /-- `$55` EOR $nn,X: R201, mode R128. -/
  | eorZpx (z : Byte)
  /-- `$56` LSR $nn,X: R232, mode R128. -/
  | lsrZpx (z : Byte)
  /-- `$58` CLI: R262, mode R124. -/
  | cli
  /-- `$59` EOR $nnnn,Y: R201, mode R132. -/
  | eorAby (a : Word)
  /-- `$5D` EOR $nnnn,X: R201, mode R131. -/
  | eorAbx (a : Word)
  /-- `$5E` LSR $nnnn,X: R232, mode R131. -/
  | lsrAbx (a : Word)
  /-- `$60` RTS: R252, mode R124. -/
  | rts
  /-- `$61` ADC ($nn,X): R197, mode R133. -/
  | adcIzx (z : Byte)
  /-- `$65` ADC $nn: R197, mode R127. -/
  | adcZp (z : Byte)
  /-- `$66` ROR $nn: R234, mode R127. -/
  | rorZp (z : Byte)
  /-- `$68` PLA: R185, mode R124. -/
  | pla
  /-- `$69` ADC #$nn: R197, mode R126. -/
  | adcImm (v : Byte)
  /-- `$6A` ROR A: R234, mode R125. -/
  | rorAcc
  /-- `$6C` JMP ($nnnn): R250, mode R136. -/
  | jmpInd (a : Word)
  /-- `$6D` ADC $nnnn: R197, mode R130. -/
  | adcAbs (a : Word)
  /-- `$6E` ROR $nnnn: R234, mode R130. -/
  | rorAbs (a : Word)
  /-- `$70` BVS label: R248, mode R135. -/
  | bvs (d : Byte)
  /-- `$71` ADC ($nn),Y: R197, mode R134. -/
  | adcIzy (z : Byte)
  /-- `$75` ADC $nn,X: R197, mode R128. -/
  | adcZpx (z : Byte)
  /-- `$76` ROR $nn,X: R234, mode R128. -/
  | rorZpx (z : Byte)
  /-- `$78` SEI: R263, mode R124. -/
  | sei
  /-- `$79` ADC $nnnn,Y: R197, mode R132. -/
  | adcAby (a : Word)
  /-- `$7D` ADC $nnnn,X: R197, mode R131. -/
  | adcAbx (a : Word)
  /-- `$7E` ROR $nnnn,X: R234, mode R131. -/
  | rorAbx (a : Word)
  /-- `$81` STA ($nn,X): R154, mode R133. -/
  | staIzx (z : Byte)
  /-- `$84` STY $nn: R156, mode R127. -/
  | styZp (z : Byte)
  /-- `$85` STA $nn: R154, mode R127. -/
  | staZp (z : Byte)
  /-- `$86` STX $nn: R155, mode R127. -/
  | stxZp (z : Byte)
  /-- `$88` DEY: R211, mode R124. -/
  | dey
  /-- `$8A` TXA: R159, mode R124. -/
  | txa
  /-- `$8C` STY $nnnn: R156, mode R130. -/
  | styAbs (a : Word)
  /-- `$8D` STA $nnnn: R154, mode R130. -/
  | staAbs (a : Word)
  /-- `$8E` STX $nnnn: R155, mode R130. -/
  | stxAbs (a : Word)
  /-- `$90` BCC label: R241, mode R135. -/
  | bcc (d : Byte)
  /-- `$91` STA ($nn),Y: R154, mode R134. -/
  | staIzy (z : Byte)
  /-- `$94` STY $nn,X: R156, mode R128. -/
  | styZpx (z : Byte)
  /-- `$95` STA $nn,X: R154, mode R128. -/
  | staZpx (z : Byte)
  /-- `$96` STX $nn,Y: R155, mode R129. -/
  | stxZpy (z : Byte)
  /-- `$98` TYA: R160, mode R124. -/
  | tya
  /-- `$99` STA $nnnn,Y: R154, mode R132. -/
  | staAby (a : Word)
  /-- `$9A` TXS: R162, mode R124. -/
  | txs
  /-- `$9D` STA $nnnn,X: R154, mode R131. -/
  | staAbx (a : Word)
  /-- `$A0` LDY #$nn: R153, mode R126. -/
  | ldyImm (v : Byte)
  /-- `$A1` LDA ($nn,X): R151, mode R133. -/
  | ldaIzx (z : Byte)
  /-- `$A2` LDX #$nn: R152, mode R126. -/
  | ldxImm (v : Byte)
  /-- `$A4` LDY $nn: R153, mode R127. -/
  | ldyZp (z : Byte)
  /-- `$A5` LDA $nn: R151, mode R127. -/
  | ldaZp (z : Byte)
  /-- `$A6` LDX $nn: R152, mode R127. -/
  | ldxZp (z : Byte)
  /-- `$A8` TAY: R158, mode R124. -/
  | tay
  /-- `$A9` LDA #$nn: R151, mode R126. -/
  | ldaImm (v : Byte)
  /-- `$AA` TAX: R157, mode R124. -/
  | tax
  /-- `$AC` LDY $nnnn: R153, mode R130. -/
  | ldyAbs (a : Word)
  /-- `$AD` LDA $nnnn: R151, mode R130. -/
  | ldaAbs (a : Word)
  /-- `$AE` LDX $nnnn: R152, mode R130. -/
  | ldxAbs (a : Word)
  /-- `$B0` BCS label: R242, mode R135. -/
  | bcs (d : Byte)
  /-- `$B1` LDA ($nn),Y: R151, mode R134. -/
  | ldaIzy (z : Byte)
  /-- `$B4` LDY $nn,X: R153, mode R128. -/
  | ldyZpx (z : Byte)
  /-- `$B5` LDA $nn,X: R151, mode R128. -/
  | ldaZpx (z : Byte)
  /-- `$B6` LDX $nn,Y: R152, mode R129. -/
  | ldxZpy (z : Byte)
  /-- `$B8` CLV: R266, mode R124. -/
  | clv
  /-- `$B9` LDA $nnnn,Y: R151, mode R132. -/
  | ldaAby (a : Word)
  /-- `$BA` TSX: R161, mode R124. -/
  | tsx
  /-- `$BC` LDY $nnnn,X: R153, mode R131. -/
  | ldyAbx (a : Word)
  /-- `$BD` LDA $nnnn,X: R151, mode R131. -/
  | ldaAbx (a : Word)
  /-- `$BE` LDX $nnnn,Y: R152, mode R132. -/
  | ldxAby (a : Word)
  /-- `$C0` CPY #$nn: R204, mode R126. -/
  | cpyImm (v : Byte)
  /-- `$C1` CMP ($nn,X): R202, mode R133. -/
  | cmpIzx (z : Byte)
  /-- `$C4` CPY $nn: R204, mode R127. -/
  | cpyZp (z : Byte)
  /-- `$C5` CMP $nn: R202, mode R127. -/
  | cmpZp (z : Byte)
  /-- `$C6` DEC $nn: R207, mode R127. -/
  | decZp (z : Byte)
  /-- `$C8` INY: R209, mode R124. -/
  | iny
  /-- `$C9` CMP #$nn: R202, mode R126. -/
  | cmpImm (v : Byte)
  /-- `$CA` DEX: R210, mode R124. -/
  | dex
  /-- `$CC` CPY $nnnn: R204, mode R130. -/
  | cpyAbs (a : Word)
  /-- `$CD` CMP $nnnn: R202, mode R130. -/
  | cmpAbs (a : Word)
  /-- `$CE` DEC $nnnn: R207, mode R130. -/
  | decAbs (a : Word)
  /-- `$D0` BNE label: R244, mode R135. -/
  | bne (d : Byte)
  /-- `$D1` CMP ($nn),Y: R202, mode R134. -/
  | cmpIzy (z : Byte)
  /-- `$D5` CMP $nn,X: R202, mode R128. -/
  | cmpZpx (z : Byte)
  /-- `$D6` DEC $nn,X: R207, mode R128. -/
  | decZpx (z : Byte)
  /-- `$D8` CLD: R264, mode R124. -/
  | cld
  /-- `$D9` CMP $nnnn,Y: R202, mode R132. -/
  | cmpAby (a : Word)
  /-- `$DD` CMP $nnnn,X: R202, mode R131. -/
  | cmpAbx (a : Word)
  /-- `$DE` DEC $nnnn,X: R207, mode R131. -/
  | decAbx (a : Word)
  /-- `$E0` CPX #$nn: R203, mode R126. -/
  | cpxImm (v : Byte)
  /-- `$E1` SBC ($nn,X): R198, mode R133. -/
  | sbcIzx (z : Byte)
  /-- `$E4` CPX $nn: R203, mode R127. -/
  | cpxZp (z : Byte)
  /-- `$E5` SBC $nn: R198, mode R127. -/
  | sbcZp (z : Byte)
  /-- `$E6` INC $nn: R206, mode R127. -/
  | incZp (z : Byte)
  /-- `$E8` INX: R208, mode R124. -/
  | inx
  /-- `$E9` SBC #$nn: R198, mode R126. -/
  | sbcImm (v : Byte)
  /-- `$EA` NOP: R267, mode R124. -/
  | nop
  /-- `$EC` CPX $nnnn: R203, mode R130. -/
  | cpxAbs (a : Word)
  /-- `$ED` SBC $nnnn: R198, mode R130. -/
  | sbcAbs (a : Word)
  /-- `$EE` INC $nnnn: R206, mode R130. -/
  | incAbs (a : Word)
  /-- `$F0` BEQ label: R243, mode R135. -/
  | beq (d : Byte)
  /-- `$F1` SBC ($nn),Y: R198, mode R134. -/
  | sbcIzy (z : Byte)
  /-- `$F5` SBC $nn,X: R198, mode R128. -/
  | sbcZpx (z : Byte)
  /-- `$F6` INC $nn,X: R206, mode R128. -/
  | incZpx (z : Byte)
  /-- `$F8` SED: R265, mode R124. -/
  | sed
  /-- `$F9` SBC $nnnn,Y: R198, mode R132. -/
  | sbcAby (a : Word)
  /-- `$FD` SBC $nnnn,X: R198, mode R131. -/
  | sbcAbx (a : Word)
  /-- `$FE` INC $nnnn,X: R206, mode R131. -/
  | incAbx (a : Word)
  deriving DecidableEq, Repr

end Sys2Proof
end

