-- ==== Sys2Proof/Decode.lean ====
section
/-! DEFINITION. The decoder and, after it, the encoder, both from the opcode map of R139. The decoder is total on any bytes
and rejects by name (R137, R140); no length depends on anything but the opcode (R120). -/

namespace Sys2Proof

open Sys2Proof.Machine (wordOf loByte hiByte)

/-- Why a sequence of bytes is no instruction. -/
inductive DecodeError where
  /-- The opcode is one of the 105 undocumented values (R137). -/
  | undocumented (op : Byte)
  /-- There are fewer bytes than the opcode's length asks for (R140). -/
  | truncated
  deriving DecidableEq, Repr

/-- One documented cell of the opcode map (R139): the opcode byte, its addressing mode, and the instruction it makes of
its first and second operand bytes (those the mode does not have are ignored). -/
structure OpcodeRow where
  opcode : Nat
  mode : Mode
  make : Byte → Byte → Instr

/-- Row 0 of the map of R139. -/
def opcodeRow0 : List OpcodeRow := [
  ⟨0x00, .imp, fun _ _ => .brk⟩,
  ⟨0x01, .izx, fun b1 _ => .oraIzx b1⟩,
  ⟨0x05, .zp, fun b1 _ => .oraZp b1⟩,
  ⟨0x06, .zp, fun b1 _ => .aslZp b1⟩,
  ⟨0x08, .imp, fun _ _ => .php⟩,
  ⟨0x09, .imm, fun b1 _ => .oraImm b1⟩,
  ⟨0x0A, .acc, fun _ _ => .aslAcc⟩,
  ⟨0x0D, .abs, fun b1 b2 => .oraAbs (wordOf b2 b1)⟩,
  ⟨0x0E, .abs, fun b1 b2 => .aslAbs (wordOf b2 b1)⟩]

/-- Row 1 of the map of R139. -/
def opcodeRow1 : List OpcodeRow := [
  ⟨0x10, .rel, fun b1 _ => .bpl b1⟩,
  ⟨0x11, .izy, fun b1 _ => .oraIzy b1⟩,
  ⟨0x15, .zpx, fun b1 _ => .oraZpx b1⟩,
  ⟨0x16, .zpx, fun b1 _ => .aslZpx b1⟩,
  ⟨0x18, .imp, fun _ _ => .clc⟩,
  ⟨0x19, .aby, fun b1 b2 => .oraAby (wordOf b2 b1)⟩,
  ⟨0x1D, .abx, fun b1 b2 => .oraAbx (wordOf b2 b1)⟩,
  ⟨0x1E, .abx, fun b1 b2 => .aslAbx (wordOf b2 b1)⟩]

/-- Row 2 of the map of R139. -/
def opcodeRow2 : List OpcodeRow := [
  ⟨0x20, .abs, fun b1 b2 => .jsr (wordOf b2 b1)⟩,
  ⟨0x21, .izx, fun b1 _ => .andIzx b1⟩,
  ⟨0x24, .zp, fun b1 _ => .bitZp b1⟩,
  ⟨0x25, .zp, fun b1 _ => .andZp b1⟩,
  ⟨0x26, .zp, fun b1 _ => .rolZp b1⟩,
  ⟨0x28, .imp, fun _ _ => .plp⟩,
  ⟨0x29, .imm, fun b1 _ => .andImm b1⟩,
  ⟨0x2A, .acc, fun _ _ => .rolAcc⟩,
  ⟨0x2C, .abs, fun b1 b2 => .bitAbs (wordOf b2 b1)⟩,
  ⟨0x2D, .abs, fun b1 b2 => .andAbs (wordOf b2 b1)⟩,
  ⟨0x2E, .abs, fun b1 b2 => .rolAbs (wordOf b2 b1)⟩]

/-- Row 3 of the map of R139. -/
def opcodeRow3 : List OpcodeRow := [
  ⟨0x30, .rel, fun b1 _ => .bmi b1⟩,
  ⟨0x31, .izy, fun b1 _ => .andIzy b1⟩,
  ⟨0x35, .zpx, fun b1 _ => .andZpx b1⟩,
  ⟨0x36, .zpx, fun b1 _ => .rolZpx b1⟩,
  ⟨0x38, .imp, fun _ _ => .sec⟩,
  ⟨0x39, .aby, fun b1 b2 => .andAby (wordOf b2 b1)⟩,
  ⟨0x3D, .abx, fun b1 b2 => .andAbx (wordOf b2 b1)⟩,
  ⟨0x3E, .abx, fun b1 b2 => .rolAbx (wordOf b2 b1)⟩]

/-- Row 4 of the map of R139. -/
def opcodeRow4 : List OpcodeRow := [
  ⟨0x40, .imp, fun _ _ => .rti⟩,
  ⟨0x41, .izx, fun b1 _ => .eorIzx b1⟩,
  ⟨0x45, .zp, fun b1 _ => .eorZp b1⟩,
  ⟨0x46, .zp, fun b1 _ => .lsrZp b1⟩,
  ⟨0x48, .imp, fun _ _ => .pha⟩,
  ⟨0x49, .imm, fun b1 _ => .eorImm b1⟩,
  ⟨0x4A, .acc, fun _ _ => .lsrAcc⟩,
  ⟨0x4C, .abs, fun b1 b2 => .jmpAbs (wordOf b2 b1)⟩,
  ⟨0x4D, .abs, fun b1 b2 => .eorAbs (wordOf b2 b1)⟩,
  ⟨0x4E, .abs, fun b1 b2 => .lsrAbs (wordOf b2 b1)⟩]

/-- Row 5 of the map of R139. -/
def opcodeRow5 : List OpcodeRow := [
  ⟨0x50, .rel, fun b1 _ => .bvc b1⟩,
  ⟨0x51, .izy, fun b1 _ => .eorIzy b1⟩,
  ⟨0x55, .zpx, fun b1 _ => .eorZpx b1⟩,
  ⟨0x56, .zpx, fun b1 _ => .lsrZpx b1⟩,
  ⟨0x58, .imp, fun _ _ => .cli⟩,
  ⟨0x59, .aby, fun b1 b2 => .eorAby (wordOf b2 b1)⟩,
  ⟨0x5D, .abx, fun b1 b2 => .eorAbx (wordOf b2 b1)⟩,
  ⟨0x5E, .abx, fun b1 b2 => .lsrAbx (wordOf b2 b1)⟩]

/-- Row 6 of the map of R139. -/
def opcodeRow6 : List OpcodeRow := [
  ⟨0x60, .imp, fun _ _ => .rts⟩,
  ⟨0x61, .izx, fun b1 _ => .adcIzx b1⟩,
  ⟨0x65, .zp, fun b1 _ => .adcZp b1⟩,
  ⟨0x66, .zp, fun b1 _ => .rorZp b1⟩,
  ⟨0x68, .imp, fun _ _ => .pla⟩,
  ⟨0x69, .imm, fun b1 _ => .adcImm b1⟩,
  ⟨0x6A, .acc, fun _ _ => .rorAcc⟩,
  ⟨0x6C, .ind, fun b1 b2 => .jmpInd (wordOf b2 b1)⟩,
  ⟨0x6D, .abs, fun b1 b2 => .adcAbs (wordOf b2 b1)⟩,
  ⟨0x6E, .abs, fun b1 b2 => .rorAbs (wordOf b2 b1)⟩]

/-- Row 7 of the map of R139. -/
def opcodeRow7 : List OpcodeRow := [
  ⟨0x70, .rel, fun b1 _ => .bvs b1⟩,
  ⟨0x71, .izy, fun b1 _ => .adcIzy b1⟩,
  ⟨0x75, .zpx, fun b1 _ => .adcZpx b1⟩,
  ⟨0x76, .zpx, fun b1 _ => .rorZpx b1⟩,
  ⟨0x78, .imp, fun _ _ => .sei⟩,
  ⟨0x79, .aby, fun b1 b2 => .adcAby (wordOf b2 b1)⟩,
  ⟨0x7D, .abx, fun b1 b2 => .adcAbx (wordOf b2 b1)⟩,
  ⟨0x7E, .abx, fun b1 b2 => .rorAbx (wordOf b2 b1)⟩]

/-- Row 8 of the map of R139. -/
def opcodeRow8 : List OpcodeRow := [
  ⟨0x81, .izx, fun b1 _ => .staIzx b1⟩,
  ⟨0x84, .zp, fun b1 _ => .styZp b1⟩,
  ⟨0x85, .zp, fun b1 _ => .staZp b1⟩,
  ⟨0x86, .zp, fun b1 _ => .stxZp b1⟩,
  ⟨0x88, .imp, fun _ _ => .dey⟩,
  ⟨0x8A, .imp, fun _ _ => .txa⟩,
  ⟨0x8C, .abs, fun b1 b2 => .styAbs (wordOf b2 b1)⟩,
  ⟨0x8D, .abs, fun b1 b2 => .staAbs (wordOf b2 b1)⟩,
  ⟨0x8E, .abs, fun b1 b2 => .stxAbs (wordOf b2 b1)⟩]

/-- Row 9 of the map of R139. -/
def opcodeRow9 : List OpcodeRow := [
  ⟨0x90, .rel, fun b1 _ => .bcc b1⟩,
  ⟨0x91, .izy, fun b1 _ => .staIzy b1⟩,
  ⟨0x94, .zpx, fun b1 _ => .styZpx b1⟩,
  ⟨0x95, .zpx, fun b1 _ => .staZpx b1⟩,
  ⟨0x96, .zpy, fun b1 _ => .stxZpy b1⟩,
  ⟨0x98, .imp, fun _ _ => .tya⟩,
  ⟨0x99, .aby, fun b1 b2 => .staAby (wordOf b2 b1)⟩,
  ⟨0x9A, .imp, fun _ _ => .txs⟩,
  ⟨0x9D, .abx, fun b1 b2 => .staAbx (wordOf b2 b1)⟩]

/-- Row A of the map of R139. -/
def opcodeRowA : List OpcodeRow := [
  ⟨0xA0, .imm, fun b1 _ => .ldyImm b1⟩,
  ⟨0xA1, .izx, fun b1 _ => .ldaIzx b1⟩,
  ⟨0xA2, .imm, fun b1 _ => .ldxImm b1⟩,
  ⟨0xA4, .zp, fun b1 _ => .ldyZp b1⟩,
  ⟨0xA5, .zp, fun b1 _ => .ldaZp b1⟩,
  ⟨0xA6, .zp, fun b1 _ => .ldxZp b1⟩,
  ⟨0xA8, .imp, fun _ _ => .tay⟩,
  ⟨0xA9, .imm, fun b1 _ => .ldaImm b1⟩,
  ⟨0xAA, .imp, fun _ _ => .tax⟩,
  ⟨0xAC, .abs, fun b1 b2 => .ldyAbs (wordOf b2 b1)⟩,
  ⟨0xAD, .abs, fun b1 b2 => .ldaAbs (wordOf b2 b1)⟩,
  ⟨0xAE, .abs, fun b1 b2 => .ldxAbs (wordOf b2 b1)⟩]

/-- Row B of the map of R139. -/
def opcodeRowB : List OpcodeRow := [
  ⟨0xB0, .rel, fun b1 _ => .bcs b1⟩,
  ⟨0xB1, .izy, fun b1 _ => .ldaIzy b1⟩,
  ⟨0xB4, .zpx, fun b1 _ => .ldyZpx b1⟩,
  ⟨0xB5, .zpx, fun b1 _ => .ldaZpx b1⟩,
  ⟨0xB6, .zpy, fun b1 _ => .ldxZpy b1⟩,
  ⟨0xB8, .imp, fun _ _ => .clv⟩,
  ⟨0xB9, .aby, fun b1 b2 => .ldaAby (wordOf b2 b1)⟩,
  ⟨0xBA, .imp, fun _ _ => .tsx⟩,
  ⟨0xBC, .abx, fun b1 b2 => .ldyAbx (wordOf b2 b1)⟩,
  ⟨0xBD, .abx, fun b1 b2 => .ldaAbx (wordOf b2 b1)⟩,
  ⟨0xBE, .aby, fun b1 b2 => .ldxAby (wordOf b2 b1)⟩]

/-- Row C of the map of R139. -/
def opcodeRowC : List OpcodeRow := [
  ⟨0xC0, .imm, fun b1 _ => .cpyImm b1⟩,
  ⟨0xC1, .izx, fun b1 _ => .cmpIzx b1⟩,
  ⟨0xC4, .zp, fun b1 _ => .cpyZp b1⟩,
  ⟨0xC5, .zp, fun b1 _ => .cmpZp b1⟩,
  ⟨0xC6, .zp, fun b1 _ => .decZp b1⟩,
  ⟨0xC8, .imp, fun _ _ => .iny⟩,
  ⟨0xC9, .imm, fun b1 _ => .cmpImm b1⟩,
  ⟨0xCA, .imp, fun _ _ => .dex⟩,
  ⟨0xCC, .abs, fun b1 b2 => .cpyAbs (wordOf b2 b1)⟩,
  ⟨0xCD, .abs, fun b1 b2 => .cmpAbs (wordOf b2 b1)⟩,
  ⟨0xCE, .abs, fun b1 b2 => .decAbs (wordOf b2 b1)⟩]

/-- Row D of the map of R139. -/
def opcodeRowD : List OpcodeRow := [
  ⟨0xD0, .rel, fun b1 _ => .bne b1⟩,
  ⟨0xD1, .izy, fun b1 _ => .cmpIzy b1⟩,
  ⟨0xD5, .zpx, fun b1 _ => .cmpZpx b1⟩,
  ⟨0xD6, .zpx, fun b1 _ => .decZpx b1⟩,
  ⟨0xD8, .imp, fun _ _ => .cld⟩,
  ⟨0xD9, .aby, fun b1 b2 => .cmpAby (wordOf b2 b1)⟩,
  ⟨0xDD, .abx, fun b1 b2 => .cmpAbx (wordOf b2 b1)⟩,
  ⟨0xDE, .abx, fun b1 b2 => .decAbx (wordOf b2 b1)⟩]

/-- Row E of the map of R139. -/
def opcodeRowE : List OpcodeRow := [
  ⟨0xE0, .imm, fun b1 _ => .cpxImm b1⟩,
  ⟨0xE1, .izx, fun b1 _ => .sbcIzx b1⟩,
  ⟨0xE4, .zp, fun b1 _ => .cpxZp b1⟩,
  ⟨0xE5, .zp, fun b1 _ => .sbcZp b1⟩,
  ⟨0xE6, .zp, fun b1 _ => .incZp b1⟩,
  ⟨0xE8, .imp, fun _ _ => .inx⟩,
  ⟨0xE9, .imm, fun b1 _ => .sbcImm b1⟩,
  ⟨0xEA, .imp, fun _ _ => .nop⟩,
  ⟨0xEC, .abs, fun b1 b2 => .cpxAbs (wordOf b2 b1)⟩,
  ⟨0xED, .abs, fun b1 b2 => .sbcAbs (wordOf b2 b1)⟩,
  ⟨0xEE, .abs, fun b1 b2 => .incAbs (wordOf b2 b1)⟩]

/-- Row F of the map of R139. -/
def opcodeRowF : List OpcodeRow := [
  ⟨0xF0, .rel, fun b1 _ => .beq b1⟩,
  ⟨0xF1, .izy, fun b1 _ => .sbcIzy b1⟩,
  ⟨0xF5, .zpx, fun b1 _ => .sbcZpx b1⟩,
  ⟨0xF6, .zpx, fun b1 _ => .incZpx b1⟩,
  ⟨0xF8, .imp, fun _ _ => .sed⟩,
  ⟨0xF9, .aby, fun b1 b2 => .sbcAby (wordOf b2 b1)⟩,
  ⟨0xFD, .abx, fun b1 b2 => .sbcAbx (wordOf b2 b1)⟩,
  ⟨0xFE, .abx, fun b1 b2 => .incAbx (wordOf b2 b1)⟩]

/-- The whole opcode map of R139: 151 documented opcodes. -/
def opcodeRows : List OpcodeRow :=
  opcodeRow0 ++ opcodeRow1 ++ opcodeRow2 ++ opcodeRow3 ++
  opcodeRow4 ++ opcodeRow5 ++ opcodeRow6 ++ opcodeRow7 ++
  opcodeRow8 ++ opcodeRow9 ++ opcodeRowA ++ opcodeRowB ++
  opcodeRowC ++ opcodeRowD ++ opcodeRowE ++ opcodeRowF

/-- The row of an opcode byte, `none` for the 105 undocumented values (R137). -/
def findRow (op : Byte) : Option OpcodeRow :=
  opcodeRows.find? fun r => r.opcode == op.toNat

/-- How many operand bytes follow an opcode; `none` for an undocumented value (R120, R123, R137). -/
def operandCount (op : Byte) : Option Nat :=
  (findRow op).map fun r => r.mode.operands

/-- Reads one instruction off the front of a list of bytes and answers it with the rest (R121, R140). -/
def decode : List Byte → Except DecodeError (Instr × List Byte)
  | [] => .error .truncated
  | op :: rest =>
    match findRow op with
    | none => .error (.undocumented op)
    | some row =>
      match row.mode.operands, rest with
      | 0, rest => .ok (row.make 0 0, rest)
      | 1, b1 :: rest => .ok (row.make b1 0, rest)
      | 2, b1 :: b2 :: rest => .ok (row.make b1 b2, rest)
      | _, _ => .error .truncated

/-- The instruction of an opcode byte and the two bytes after it, whatever its length (R140). -/
def decodeBytes (op b1 b2 : Byte) : Option Instr :=
  match decode [op, b1, b2] with
  | .ok (i, _) => some i
  | .error _ => none

/-- The instruction the decoder reads from the opcode-table word `w` of `nbits` bits: bit 0 is the least significant bit of
the opcode byte, the second byte is bits 15..8, the third bits 23..16, and the bits from `nbits` on are 0. -/
def decodeTableWord (nbits w : Nat) : Option Instr :=
  decodeBytes (BitVec.ofNat 8 (w % 2 ^ nbits)) (BitVec.ofNat 8 (w % 2 ^ nbits / 256))
    (BitVec.ofNat 8 (w % 2 ^ nbits / 65536))

/-- The bytes of an instruction (R120, R139): the opcode, then the operand bytes, an address low byte first (R130). -/
def encode : Instr → List Byte
  | .brk => [0x00#8]
  | .oraIzx z => [0x01#8, z]
  | .oraZp z => [0x05#8, z]
  | .aslZp z => [0x06#8, z]
  | .php => [0x08#8]
  | .oraImm v => [0x09#8, v]
  | .aslAcc => [0x0A#8]
  | .oraAbs a => [0x0D#8, loByte a, hiByte a]
  | .aslAbs a => [0x0E#8, loByte a, hiByte a]
  | .bpl d => [0x10#8, d]
  | .oraIzy z => [0x11#8, z]
  | .oraZpx z => [0x15#8, z]
  | .aslZpx z => [0x16#8, z]
  | .clc => [0x18#8]
  | .oraAby a => [0x19#8, loByte a, hiByte a]
  | .oraAbx a => [0x1D#8, loByte a, hiByte a]
  | .aslAbx a => [0x1E#8, loByte a, hiByte a]
  | .jsr a => [0x20#8, loByte a, hiByte a]
  | .andIzx z => [0x21#8, z]
  | .bitZp z => [0x24#8, z]
  | .andZp z => [0x25#8, z]
  | .rolZp z => [0x26#8, z]
  | .plp => [0x28#8]
  | .andImm v => [0x29#8, v]
  | .rolAcc => [0x2A#8]
  | .bitAbs a => [0x2C#8, loByte a, hiByte a]
  | .andAbs a => [0x2D#8, loByte a, hiByte a]
  | .rolAbs a => [0x2E#8, loByte a, hiByte a]
  | .bmi d => [0x30#8, d]
  | .andIzy z => [0x31#8, z]
  | .andZpx z => [0x35#8, z]
  | .rolZpx z => [0x36#8, z]
  | .sec => [0x38#8]
  | .andAby a => [0x39#8, loByte a, hiByte a]
  | .andAbx a => [0x3D#8, loByte a, hiByte a]
  | .rolAbx a => [0x3E#8, loByte a, hiByte a]
  | .rti => [0x40#8]
  | .eorIzx z => [0x41#8, z]
  | .eorZp z => [0x45#8, z]
  | .lsrZp z => [0x46#8, z]
  | .pha => [0x48#8]
  | .eorImm v => [0x49#8, v]
  | .lsrAcc => [0x4A#8]
  | .jmpAbs a => [0x4C#8, loByte a, hiByte a]
  | .eorAbs a => [0x4D#8, loByte a, hiByte a]
  | .lsrAbs a => [0x4E#8, loByte a, hiByte a]
  | .bvc d => [0x50#8, d]
  | .eorIzy z => [0x51#8, z]
  | .eorZpx z => [0x55#8, z]
  | .lsrZpx z => [0x56#8, z]
  | .cli => [0x58#8]
  | .eorAby a => [0x59#8, loByte a, hiByte a]
  | .eorAbx a => [0x5D#8, loByte a, hiByte a]
  | .lsrAbx a => [0x5E#8, loByte a, hiByte a]
  | .rts => [0x60#8]
  | .adcIzx z => [0x61#8, z]
  | .adcZp z => [0x65#8, z]
  | .rorZp z => [0x66#8, z]
  | .pla => [0x68#8]
  | .adcImm v => [0x69#8, v]
  | .rorAcc => [0x6A#8]
  | .jmpInd a => [0x6C#8, loByte a, hiByte a]
  | .adcAbs a => [0x6D#8, loByte a, hiByte a]
  | .rorAbs a => [0x6E#8, loByte a, hiByte a]
  | .bvs d => [0x70#8, d]
  | .adcIzy z => [0x71#8, z]
  | .adcZpx z => [0x75#8, z]
  | .rorZpx z => [0x76#8, z]
  | .sei => [0x78#8]
  | .adcAby a => [0x79#8, loByte a, hiByte a]
  | .adcAbx a => [0x7D#8, loByte a, hiByte a]
  | .rorAbx a => [0x7E#8, loByte a, hiByte a]
  | .staIzx z => [0x81#8, z]
  | .styZp z => [0x84#8, z]
  | .staZp z => [0x85#8, z]
  | .stxZp z => [0x86#8, z]
  | .dey => [0x88#8]
  | .txa => [0x8A#8]
  | .styAbs a => [0x8C#8, loByte a, hiByte a]
  | .staAbs a => [0x8D#8, loByte a, hiByte a]
  | .stxAbs a => [0x8E#8, loByte a, hiByte a]
  | .bcc d => [0x90#8, d]
  | .staIzy z => [0x91#8, z]
  | .styZpx z => [0x94#8, z]
  | .staZpx z => [0x95#8, z]
  | .stxZpy z => [0x96#8, z]
  | .tya => [0x98#8]
  | .staAby a => [0x99#8, loByte a, hiByte a]
  | .txs => [0x9A#8]
  | .staAbx a => [0x9D#8, loByte a, hiByte a]
  | .ldyImm v => [0xA0#8, v]
  | .ldaIzx z => [0xA1#8, z]
  | .ldxImm v => [0xA2#8, v]
  | .ldyZp z => [0xA4#8, z]
  | .ldaZp z => [0xA5#8, z]
  | .ldxZp z => [0xA6#8, z]
  | .tay => [0xA8#8]
  | .ldaImm v => [0xA9#8, v]
  | .tax => [0xAA#8]
  | .ldyAbs a => [0xAC#8, loByte a, hiByte a]
  | .ldaAbs a => [0xAD#8, loByte a, hiByte a]
  | .ldxAbs a => [0xAE#8, loByte a, hiByte a]
  | .bcs d => [0xB0#8, d]
  | .ldaIzy z => [0xB1#8, z]
  | .ldyZpx z => [0xB4#8, z]
  | .ldaZpx z => [0xB5#8, z]
  | .ldxZpy z => [0xB6#8, z]
  | .clv => [0xB8#8]
  | .ldaAby a => [0xB9#8, loByte a, hiByte a]
  | .tsx => [0xBA#8]
  | .ldyAbx a => [0xBC#8, loByte a, hiByte a]
  | .ldaAbx a => [0xBD#8, loByte a, hiByte a]
  | .ldxAby a => [0xBE#8, loByte a, hiByte a]
  | .cpyImm v => [0xC0#8, v]
  | .cmpIzx z => [0xC1#8, z]
  | .cpyZp z => [0xC4#8, z]
  | .cmpZp z => [0xC5#8, z]
  | .decZp z => [0xC6#8, z]
  | .iny => [0xC8#8]
  | .cmpImm v => [0xC9#8, v]
  | .dex => [0xCA#8]
  | .cpyAbs a => [0xCC#8, loByte a, hiByte a]
  | .cmpAbs a => [0xCD#8, loByte a, hiByte a]
  | .decAbs a => [0xCE#8, loByte a, hiByte a]
  | .bne d => [0xD0#8, d]
  | .cmpIzy z => [0xD1#8, z]
  | .cmpZpx z => [0xD5#8, z]
  | .decZpx z => [0xD6#8, z]
  | .cld => [0xD8#8]
  | .cmpAby a => [0xD9#8, loByte a, hiByte a]
  | .cmpAbx a => [0xDD#8, loByte a, hiByte a]
  | .decAbx a => [0xDE#8, loByte a, hiByte a]
  | .cpxImm v => [0xE0#8, v]
  | .sbcIzx z => [0xE1#8, z]
  | .cpxZp z => [0xE4#8, z]
  | .sbcZp z => [0xE5#8, z]
  | .incZp z => [0xE6#8, z]
  | .inx => [0xE8#8]
  | .sbcImm v => [0xE9#8, v]
  | .nop => [0xEA#8]
  | .cpxAbs a => [0xEC#8, loByte a, hiByte a]
  | .sbcAbs a => [0xED#8, loByte a, hiByte a]
  | .incAbs a => [0xEE#8, loByte a, hiByte a]
  | .beq d => [0xF0#8, d]
  | .sbcIzy z => [0xF1#8, z]
  | .sbcZpx z => [0xF5#8, z]
  | .incZpx z => [0xF6#8, z]
  | .sed => [0xF8#8]
  | .sbcAby a => [0xF9#8, loByte a, hiByte a]
  | .sbcAbx a => [0xFD#8, loByte a, hiByte a]
  | .incAbx a => [0xFE#8, loByte a, hiByte a]

end Sys2Proof
end

