-- ==== Sys2Proof/Machine/Cycle.lean ====
section
/-! DEFINITION. The cycle script of every sequence from its first cycle on (R30, R520), the position inside it, and the decision
at an instruction boundary (R305 to R308). -/

namespace Sys2Proof.Machine

open Sys2Proof

/-- The script of an instruction after the fetch of its bytes (R520). -/
def microOf (i : Instr) (r : Regs) : Micro :=
  match i with
  | .brk => microBrk r
  | .oraIzx z => microOraIzx z r
  | .oraZp z => microOraZp z r
  | .aslZp z => microAslZp z r
  | .php => microPhp r
  | .oraImm v => microOraImm v r
  | .aslAcc => microAslAcc r
  | .oraAbs a => microOraAbs a r
  | .aslAbs a => microAslAbs a r
  | .bpl d => microBpl d r
  | .oraIzy z => microOraIzy z r
  | .oraZpx z => microOraZpx z r
  | .aslZpx z => microAslZpx z r
  | .clc => microClc r
  | .oraAby a => microOraAby a r
  | .oraAbx a => microOraAbx a r
  | .aslAbx a => microAslAbx a r
  | .jsr a => microJsr a r
  | .andIzx z => microAndIzx z r
  | .bitZp z => microBitZp z r
  | .andZp z => microAndZp z r
  | .rolZp z => microRolZp z r
  | .plp => microPlp r
  | .andImm v => microAndImm v r
  | .rolAcc => microRolAcc r
  | .bitAbs a => microBitAbs a r
  | .andAbs a => microAndAbs a r
  | .rolAbs a => microRolAbs a r
  | .bmi d => microBmi d r
  | .andIzy z => microAndIzy z r
  | .andZpx z => microAndZpx z r
  | .rolZpx z => microRolZpx z r
  | .sec => microSec r
  | .andAby a => microAndAby a r
  | .andAbx a => microAndAbx a r
  | .rolAbx a => microRolAbx a r
  | .rti => microRti r
  | .eorIzx z => microEorIzx z r
  | .eorZp z => microEorZp z r
  | .lsrZp z => microLsrZp z r
  | .pha => microPha r
  | .eorImm v => microEorImm v r
  | .lsrAcc => microLsrAcc r
  | .jmpAbs a => microJmpAbs a r
  | .eorAbs a => microEorAbs a r
  | .lsrAbs a => microLsrAbs a r
  | .bvc d => microBvc d r
  | .eorIzy z => microEorIzy z r
  | .eorZpx z => microEorZpx z r
  | .lsrZpx z => microLsrZpx z r
  | .cli => microCli r
  | .eorAby a => microEorAby a r
  | .eorAbx a => microEorAbx a r
  | .lsrAbx a => microLsrAbx a r
  | .rts => microRts r
  | .adcIzx z => microAdcIzx z r
  | .adcZp z => microAdcZp z r
  | .rorZp z => microRorZp z r
  | .pla => microPla r
  | .adcImm v => microAdcImm v r
  | .rorAcc => microRorAcc r
  | .jmpInd a => microJmpInd a r
  | .adcAbs a => microAdcAbs a r
  | .rorAbs a => microRorAbs a r
  | .bvs d => microBvs d r
  | .adcIzy z => microAdcIzy z r
  | .adcZpx z => microAdcZpx z r
  | .rorZpx z => microRorZpx z r
  | .sei => microSei r
  | .adcAby a => microAdcAby a r
  | .adcAbx a => microAdcAbx a r
  | .rorAbx a => microRorAbx a r
  | .staIzx z => microStaIzx z r
  | .styZp z => microStyZp z r
  | .staZp z => microStaZp z r
  | .stxZp z => microStxZp z r
  | .dey => microDey r
  | .txa => microTxa r
  | .styAbs a => microStyAbs a r
  | .staAbs a => microStaAbs a r
  | .stxAbs a => microStxAbs a r
  | .bcc d => microBcc d r
  | .staIzy z => microStaIzy z r
  | .styZpx z => microStyZpx z r
  | .staZpx z => microStaZpx z r
  | .stxZpy z => microStxZpy z r
  | .tya => microTya r
  | .staAby a => microStaAby a r
  | .txs => microTxs r
  | .staAbx a => microStaAbx a r
  | .ldyImm v => microLdyImm v r
  | .ldaIzx z => microLdaIzx z r
  | .ldxImm v => microLdxImm v r
  | .ldyZp z => microLdyZp z r
  | .ldaZp z => microLdaZp z r
  | .ldxZp z => microLdxZp z r
  | .tay => microTay r
  | .ldaImm v => microLdaImm v r
  | .tax => microTax r
  | .ldyAbs a => microLdyAbs a r
  | .ldaAbs a => microLdaAbs a r
  | .ldxAbs a => microLdxAbs a r
  | .bcs d => microBcs d r
  | .ldaIzy z => microLdaIzy z r
  | .ldyZpx z => microLdyZpx z r
  | .ldaZpx z => microLdaZpx z r
  | .ldxZpy z => microLdxZpy z r
  | .clv => microClv r
  | .ldaAby a => microLdaAby a r
  | .tsx => microTsx r
  | .ldyAbx a => microLdyAbx a r
  | .ldaAbx a => microLdaAbx a r
  | .ldxAby a => microLdxAby a r
  | .cpyImm v => microCpyImm v r
  | .cmpIzx z => microCmpIzx z r
  | .cpyZp z => microCpyZp z r
  | .cmpZp z => microCmpZp z r
  | .decZp z => microDecZp z r
  | .iny => microIny r
  | .cmpImm v => microCmpImm v r
  | .dex => microDex r
  | .cpyAbs a => microCpyAbs a r
  | .cmpAbs a => microCmpAbs a r
  | .decAbs a => microDecAbs a r
  | .bne d => microBne d r
  | .cmpIzy z => microCmpIzy z r
  | .cmpZpx z => microCmpZpx z r
  | .decZpx z => microDecZpx z r
  | .cld => microCld r
  | .cmpAby a => microCmpAby a r
  | .cmpAbx a => microCmpAbx a r
  | .decAbx a => microDecAbx a r
  | .cpxImm v => microCpxImm v r
  | .sbcIzx z => microSbcIzx z r
  | .cpxZp z => microCpxZp z r
  | .sbcZp z => microSbcZp z r
  | .incZp z => microIncZp z r
  | .inx => microInx r
  | .sbcImm v => microSbcImm v r
  | .nop => microNop r
  | .cpxAbs a => microCpxAbs a r
  | .sbcAbs a => microSbcAbs a r
  | .incAbs a => microIncAbs a r
  | .beq d => microBeq d r
  | .sbcIzy z => microSbcIzy z r
  | .sbcZpx z => microSbcZpx z r
  | .incZpx z => microIncZpx z r
  | .sed => microSed r
  | .sbcAby a => microSbcAby a r
  | .sbcAbx a => microSbcAbx a r
  | .incAbx a => microIncAbx a r

/-- `irq_line` (R29, R303): the OR of both timer chips' outputs. -/
def irqLine (s : State) : Bool := irqOut s.viaA || irqOut s.viaB

/-- The pending NMI as the processor's next cycle sees it, after that cycle's sample of the line (R304, R520). -/
def nmiSeen (s : State) : Bool := s.nmiPending || ((nextInputs s).nmi && !s.nmiPrev)

/-- What the next cycle begins at a boundary (R305, R306, R308): NMI before IRQ before the instruction at `PC`. -/
def boundaryKind (s : State) : Seq :=
  if nmiSeen s then .nmi
  else if irqLine s && !s.regs.p.i then .irq
  else .instr

/-- The registers with `PC` advanced past one fetched byte (R25). -/
def advance (r : Regs) : Regs := { r with pc := r.pc + 1 }

/-- `JSR`'s opcode, whose high operand byte is fetched last (R528). -/
def jsrOpcode : Byte := 0x20#8

/-- The script of an instruction given its bytes, refused when the opcode is undocumented (R137). -/
def decodedMicro (op b1 b2 : Byte) (r : Regs) : Micro :=
  match decodeBytes op b1 b2 with
  | some i => microOf i r
  | none => .refuse (.undocumentedOpcode op)

/-- The cycles after the opcode fetch (R120, R121): the operand bytes, then the instruction's script. `JSR` fetches its low
operand byte only (R528). -/
def operandMicro (op : Byte) (r : Regs) : Micro :=
  match operandCount op with
  | none => .refuse (.undocumentedOpcode op)
  | some 0 => decodedMicro op 0 0 r
  | some 1 => fetchAt r fun b1 => decodedMicro op b1 0 (advance r)
  | some _ =>
    fetchAt r fun b1 =>
      if op == jsrOpcode then decodedMicro op b1 0 (advance r)
      else fetchAt (advance r) fun b2 => decodedMicro op b1 b2 (advance (advance r))

/-- The script of an instruction from its opcode fetch on (R520). -/
def instrMicro (r : Regs) : Micro := fetchAt r fun op => operandMicro op (advance r)

/-- The script of a sequence from its first cycle on (R30). -/
def seqMicro (k : Seq) (r : Regs) : Micro :=
  match k with
  | .instr => instrMicro r
  | .irq => irqMicro r
  | .nmi => nmiMicro r
  | .reset => resetMicro r

/-- The rest of the sequence in progress (R30). -/
def inFlightMicro (f : InFlight) : Micro := resume (seqMicro f.kind f.start) f.seen

/-- The sequence that starts at a boundary (R520). -/
def beginSequence (s : State) : InFlight := ⟨boundaryKind s, s.regs, []⟩

/-- The sequence the next cycle belongs to: the one in progress, or the one that starts at this boundary (R520). -/
def currentSequence (s : State) : InFlight := s.seq.getD (beginSequence s)

/-- `t` (R30): 0 at a boundary, else the 1-based index of the cycle that runs next. -/
def cycleIndex (s : State) : Nat :=
  match s.seq with
  | none => 0
  | some f => f.seen.length + 1

/-- The architectural PC (R25, R27): the opcode address of the instruction in progress or, at a boundary, of the next one. -/
def architecturalPc (s : State) : Word :=
  match s.seq with
  | none => s.regs.pc
  | some f => f.start.pc

/-- The observed PC (R26): one past the architectural PC once `step()` has fetched the next opcode, equal to it before. -/
def observedPc (s : State) : Word :=
  match s.seq with
  | some ⟨.instr, start, _ :: _⟩ => start.pc + 1
  | _ => architecturalPc s

end Sys2Proof.Machine
end

