-- ==== Sys2Proof/Machine/Fetch.lean ====
section
/-! DEFINITION. The fetch of an instruction's bytes (R121, R520): one clock a byte, `PC` advanced past each. -/

namespace Sys2Proof.Machine

open Sys2Proof

/-- Fetches the byte at `PC` in one clock and advances `PC` (R121). -/
def fetchByte (s : State) : Result (Byte × State) :=
  andThen (clock (.fetch s.regs.pc) .keep s) fun o => .next (o.1.byte, o.2.withRegs (advance s.regs))

/-- The instruction of fetched bytes, refused when the opcode is undocumented (R137). -/
def decodedInstr (op b1 b2 : Byte) (s : State) : Result (Instr × State) :=
  match decodeBytes op b1 b2 with
  | some i => .next (i, s)
  | none => .refused (.undocumentedOpcode op)

/-- Fetches and decodes the instruction at `PC` (R121, R140): the instruction, and the state after its fetch cycles. For `JSR` the
high operand byte is only looked at here: its fetch is cycle 6 of the instruction (R528, log entry 15). -/
def fetchInstr (s : State) : Result (Instr × State) :=
  andThen (fetchByte s) fun f0 =>
    match operandCount f0.1 with
    | none => .refused (.undocumentedOpcode f0.1)
    | some 0 => decodedInstr f0.1 0 0 f0.2
    | some 1 => andThen (fetchByte f0.2) fun f1 => decodedInstr f0.1 f1.1 0 f1.2
    | some _ =>
      andThen (fetchByte f0.2) fun f1 =>
        if f0.1 == jsrOpcode then decodedInstr f0.1 f1.1 (cell f1.2.mem f1.2.regs.pc) f1.2
        else andThen (fetchByte f1.2) fun f2 => decodedInstr f0.1 f1.1 f2.1 f2.2

/-- Three consecutive addresses from `PC` on are RAM or ROM cells. -/
def fetchable (s : State) : Bool :=
  isMemory s.cfg s.regs.pc && isMemory s.cfg (s.regs.pc + 1) && isMemory s.cfg (s.regs.pc + 2)

/-- A state at an instruction boundary whose next cycle begins the instruction at `PC`: no sequence in progress, no interrupt
recognised (R305, R306), and `PC` in RAM or ROM. What already holds of `s` is kept (log entry 12). -/
def atFetch (s : State) : State :=
  let s1 := (s.withSeq none).withRun (if s.run == .uninitialized then .ready else s.run)
  let s2 := if nmiSeen s1 then s1.withNmi (nextInputs s1).nmi false else s1
  let s3 :=
    if irqLine s2 && !s2.regs.p.i then s2.withRegs { s2.regs with p := { s2.regs.p with i := true } } else s2
  if fetchable s3 then s3 else s3.withRegs { s3.regs with pc := 0x1000#16 }

/-- Stores three bytes from `PC` on as the host would before a run (R480), whatever the cell's kind. -/
def placeBytes (b0 b1 b2 : Byte) (s : State) : State :=
  s.withMem
    (memPut (memPut (memPut s.mem s.regs.pc.toNat b0) (s.regs.pc + 1).toNat b1) (s.regs.pc + 2).toNat b2)

end Sys2Proof.Machine
end

