-- ==== Sys2Proof/Machine/Step.lean ====
section
/-! DEFINITION. One step of the machine: from an instruction boundary to the next one (R472), or, when a sequence is in
progress, to its end (log entry 13). -/

namespace Sys2Proof.Machine

open Sys2Proof

/-- One step. Before `init` it is refused (R474). With a sequence in progress (R30, R500) it runs the rest of it. At a
boundary it takes an NMI or an IRQ that is recognised there (R305, R306, R308), or fetches the instruction at `PC` and
runs its meaning. -/
def step (s : State) : Host.Outcome State Fault Refusal :=
  match s.run with
  | .uninitialized => .refused .notInitialised
  | _ =>
    match s.seq with
    | some f => runMicro (inFlightMicro f) (s.withSeq none)
    | none =>
      match boundaryKind s with
      | .instr => andThen (fetchInstr s) fun f => exec f.1 f.2
      | k => runMicro (seqMicro k s.regs) s

/-- `s` with the instruction of the opcode-table word `w` stored where `step` fetches next, every bit from `nbits` on being
0, at an instruction boundary that begins it (log entry 12). -/
def State.withFetchWord (s : State) (nbits w : Nat) : State :=
  placeBytes (BitVec.ofNat 8 (w % 2 ^ nbits)) (BitVec.ofNat 8 (w % 2 ^ nbits / 256))
    (BitVec.ofNat 8 (w % 2 ^ nbits / 65536)) (atFetch s)

end Sys2Proof.Machine
end

