-- ==== Sys2Proof/Machine/Orchestrator.lean ====
section
/-! DEFINITION. The orchestrator (63_machine_orchestrator.md): `step_cycle()` (R470, R520), `step_frame()` (R471), the source's
`step()` (R472), and the host's calls `init`, `reset`, `pause` and `resume` (R474 to R480). -/

namespace Sys2Proof.Machine

open Sys2Proof

/-! ## Stepping -/

/-- The state after a cycle that showed `o` in the sequence `f`, whose rest is `m` (R520): at the sequence's last cycle the
processor is at a boundary again. -/
def afterCycle (f : InFlight) (o : Obs) (m : Micro) (s : State) : Result State :=
  match m with
  | .done r => .next ((s.withRegs r).withSeq none)
  | .refuse e => .refused e
  | .cycle r _ _ _ => .next ((s.withRegs r).withSeq (some { f with seen := f.seen ++ [o] }))

/-- `step_cycle()` (R470, R520): one clock of every component, running one cycle of the sequence in progress or the first cycle of
the one that begins at this boundary. Its frame flag is `frameFlag` of the state it leaves. -/
def stepCycle (s : State) : Result State :=
  match s.run with
  | .uninitialized => .refused .notInitialised
  | _ =>
    match inFlightMicro (currentSequence s) with
    | .done r => .next ((s.withSeq none).withRegs r)
    | .refuse e => .refused e
    | .cycle r b act next =>
      andThen (clock b act (s.withRegs r)) fun o => afterCycle (currentSequence s) o.1 (next o.1) o.2

/-- What `step_cycle()` returns (R470): whether the clock just run completed a frame (R436). -/
def frameFlag (s : State) : Bool := (s.sink.head?.map ClockOut.frame).getD false

/-- At most `n` clocks, stopping after the first that completes a frame (R471). -/
def stepUntilFrame : Nat → State → Result State
  | 0, s => .next s
  | n + 1, s => andThen (stepCycle s) fun t => if frameFlag t then .next t else stepUntilFrame n t

/-- `step_frame()` (R471): `step_cycle()` until a call returns true, which takes at most `H * V + 1` calls. -/
def stepFrame (s : State) : Result State := stepUntilFrame (s.cfg.timing.lineCycles * s.cfg.lines + 1) s

/-- Clocks until the sequence in progress has ended (at most `n`). -/
def runToBoundary : Nat → State → Result State
  | 0, s => .next s
  | n + 1, s =>
    match s.seq with
    | none => .next s
    | some _ => andThen (stepCycle s) (runToBoundary n)

/-- The clock just run fetched an opcode that is not discarded (R27, R472). -/
def opcodeFetched (s : State) : Bool :=
  match s.seq with
  | some ⟨.instr, _, [_]⟩ => true
  | _ => false

/-- From a boundary: any interrupt sequence taken there, then one opcode fetch that is not discarded (R472). -/
def fetchNextOpcode : Nat → State → Result State
  | 0, s => .next s
  | n + 1, s =>
    andThen (stepCycle s) fun t =>
      if opcodeFetched t then .next t else andThen (runToBoundary 7 t) (fetchNextOpcode n)

/-- The source's `step()` (R472): the sequence in progress to its end, any interrupt sequence taken at its boundary, and one
opcode fetch. From a boundary the first clock begins that boundary's sequence (DEDUCED, log entry 24). With RESETSEQ in progress
its cycles run as those of an interrupt sequence, and the step ends after the first opcode fetch, with no instruction executed
(DESIGN CHOICE, log entry 24). The bound covers every NMI edge the queued inputs can hold. -/
def sourceStep (s : State) : Result State :=
  let begun := match s.seq with
    | none => stepCycle s
    | some _ => .next s
  andThen begun fun t => andThen (runToBoundary 7 t) (fetchNextOpcode (s.inputs.length + 4))

/-! ## Reset, pause and resume (R474, R476, R478) -/

/-- The values R34 leaves to `draw(cpu_reset_draw)`: the host's choice at each reset. -/
structure CpuDraw where
  a : Byte
  x : Byte
  y : Byte
  s : Byte
  n : Bool
  v : Bool
  d : Bool
  z : Bool
  c : Bool
  deriving DecidableEq, Repr

/-- Every draw of a machine reset (R34, R370). -/
structure ResetDraw where
  cpu : CpuDraw
  viaA : ViaDraw
  viaB : ViaDraw
  deriving DecidableEq, Repr

/-- The registers while RESETSEQ runs: the drawn values, with PC and I as they were until cycles 6 and 7 write them (R500). -/
def drawnRegs (d : CpuDraw) (r : Regs) : Regs where
  a := d.a
  x := d.x
  y := d.y
  s := d.s
  pc := r.pc
  p := ⟨d.n, d.v, d.d, r.p.i, d.z, d.c⟩

/-- What `reset()` leaves (R478, R500): the processor at `t = 1` of RESETSEQ, both timer chips (R370) and the video/audio chip
(R450) reset, and RAM, colour RAM, ROM and the latch kept. DESIGN CHOICE (log entry 31): "the input levels at reset" (R34, R370)
are those of the clock last run, `State.inp`, and not those the next clock samples; the spec does not say which, and a reset falls
between two clocks. -/
def resetState (d : ResetDraw) (s : State) : State :=
  { s with
    regs := drawnRegs d.cpu s.regs
    nmiPrev := s.inp.nmi
    nmiPending := false
    seq := some ⟨.reset, drawnRegs d.cpu s.regs, []⟩
    viaA := viaReset d.viaA s.inp.a
    viaB := viaReset d.viaB s.inp.b
    vic := Vic.resetWith s.cfg.vicResetValues s.cfg.lfsrReset }

/-- A host call that needs an initialised machine (R474): only `init` leaves `uninitialized`. DESIGN CHOICE (log entry 30): R474
names the refusal of a step, and the model refuses `reset`, `pause` and `resume` there alike. -/
def hostCall (k : State → State) (s : State) : Result State :=
  match s.run with
  | .uninitialized => .refused .notInitialised
  | _ => .next (k s)

/-- `reset()` (R474, R478): allowed in `ready/paused` and `running`, and leaves the run state unchanged. -/
def hostReset (d : ResetDraw) (s : State) : Result State := hostCall (resetState d) s

/-- `pause()` (R474, R476): from `running` to `ready/paused`. DESIGN CHOICE (log entry 32): in `ready/paused` it is accepted and has
no effect; R474 says only that it moves between the two states. -/
def hostPause (s : State) : Result State := hostCall (fun s => s.withRun .ready) s

/-- `resume()` (R474, R476): from `ready/paused` to `running`. DESIGN CHOICE (log entry 32): in `running` it is accepted and has no
effect; R474 says only that it moves between the two states. -/
def hostResume (s : State) : Result State := hostCall (fun s => s.withRun .running) s

/-! ## `init` (R475, R477, R479) -/

/-- A requested expansion size (R10, R91, R477). -/
inductive SizeRequest where
  | fixed (e : Expansion)
  | auto
  | unrecognised
  deriving DecidableEq, Repr

/-- What the host's program sniff found (R91, R477). DESIGN CHOICE (log entry 34): where no program is loaded, or it declares no load
address, and no sniff failed, the spec does not say which size `auto` takes; that size is a draw the host gives. -/
inductive Sniff where
  | failed
  | noAddress (autoDraw : Expansion)
  | address (a : Nat)
  deriving DecidableEq, Repr

/-- A snapshot (R479): any part of the machine state; a part left out takes its cold-start value (log entry 25). -/
structure Snapshot where
  regs : Option Regs
  /-- RAM and colour RAM contents. -/
  cells : List Host.Cell
  latch : Option Byte
  nmiPrev : Option Bool
  nmiPending : Option Bool
  viaA : Option Via
  viaB : Option Via
  vic : Option Vic
  deriving DecidableEq, Repr

/-- What `init` is given (R475): the configuration, the ROM buffers, the power-on draws (R35), the program as initial
memory (R480), an optional snapshot, and the host's input levels. -/
structure InitRequest where
  /-- The configuration but for its expansion, which `size` gives, and its cartridge size, which the image gives. -/
  cfg : Config
  size : SizeRequest
  /-- The program's load address, if it has one, or that the program-type sniff failed (R91, R477). -/
  sniff : Sniff
  charRom : Option (List Byte)
  basicRom : Option (List Byte)
  kernelRom : Option (List Byte)
  cartridge : List Byte
  ram : List Host.Cell
  latch : Byte
  draw : ResetDraw
  inp : HostInputs
  inputs : List HostInputs
  snapshot : Option Snapshot
  deriving DecidableEq, Repr

/-- The expansion size `init` settles on (R91, R477): a failed sniff gives `none`, a fixed size is itself, and `auto` is the OPEN
rule's value at the load address, or the draw of log entry 34 (DESIGN CHOICE) where there is no address. -/
def resolveSize (q : InitRequest) : Except Fault Expansion :=
  match q.size, q.sniff with
  | .unrecognised, _ => .error .unrecognisedExpansion
  | _, .failed => .ok .none
  | .fixed e, _ => .ok e
  | .auto, .noAddress e => .ok e
  | .auto, .address a => .ok (Config.autoExpansionRule a)

/-- A buffer of exactly the size it needs (R477, D49). -/
def wholeBuffer (size : Nat) (b : Option (List Byte)) : Option (List Byte) :=
  b.bind fun l => if l.length == size then some l else none

/-- Host-given initial contents of RAM and colour RAM (R35, R480). DESIGN CHOICE (log entry 25): a cell of another region is left
out, and of two values for one cell the later one stands. -/
def placeCells (cfg : Config) : List Host.Cell → List Host.Cell → List Host.Cell
  | m, [] => m
  | m, (a, v) :: rest => placeCells cfg (if a < 65536 then storeByte cfg m (BitVec.ofNat 16 a) v else m) rest

/-- The bytes of a cartridge image that lie in its window `$A000-$BFFF` (R90, D20). DESIGN CHOICE (log entry 28): the spec gives
the image no size, and the bytes of an image longer than the window's 8K are left out. -/
def cartridgeImage (q : InitRequest) : List Byte := q.cartridge.take 0x2000

/-- The memory `init` builds (R475): the RAM contents, the ROM images, and a cartridge's image in its window. DESIGN CHOICE (log
entry 35): a failed sniff leaves out neither the RAM contents nor the cartridge image; R477 names only its expansion and its cold
start. -/
def initMemory (cfg : Config) (q : InitRequest) (chars basic kernel : List Byte) : List Host.Cell :=
  let m := memLoad (memLoad (memLoad (placeCells cfg [] q.ram) 0x8000 chars) 0xC000 basic) 0xE000 kernel
  if cfg.programType == .cartridge then memLoad m 0xA000 (cartridgeImage q) else m

/-- The machine at power-on, before its reset (R35, R475). -/
def powerOn (cfg : Config) (q : InitRequest) (m : List Host.Cell) : State :=
  { State.reset with
    cfg := cfg
    mem := m
    latch := q.latch
    inp := q.inp
    inputs := q.inputs }

/-- Why a timer chip of a snapshot is refused, if it is (R367, R479). DESIGN CHOICE (log entry 33): of several reasons `ACR`'s is
named before `PCR`'s; the spec gives no order. -/
def viaRefusal (c : Via) : Option Refusal := (acrRefusal c.acr).orElse fun _ => pcrRefusal c.pcr

/-- Why a snapshot is refused, if it is (R479): `IN_MATRIX_X`, or a mode R367 refuses. DESIGN CHOICE (log entry 29): R479 does not
name a video register 0 with the interlace bit set, and the model does not refuse one. DESIGN CHOICE (log entry 33): of several
refused states the one named is `IN_MATRIX_X`, then timer chip A's, then timer chip B's; R479 gives no order. -/
def snapshotRefusal (p : Snapshot) : Option Refusal :=
  match p.vic.map Vic.fs with
  | some .inMatrixX => some .unreachableFetchState
  | _ => (p.viaA.bind viaRefusal).orElse fun _ => p.viaB.bind viaRefusal

/-- A snapshot start (R479): its values replace those of a cold start `s`, and the processor is at a boundary with no reset
sequence. Registers it leaves out have their values after a reset (R34). -/
def startSnapshot (p : Snapshot) (s : State) : State :=
  let m := placeCells s.cfg s.mem p.cells
  let cold : Regs := { s.regs with pc := wordAt (cell m) resetVector, p := { s.regs.p with i := true } }
  { s with
    regs := p.regs.getD cold
    seq := none
    mem := m
    latch := p.latch.getD s.latch
    nmiPrev := p.nmiPrev.getD s.nmiPrev
    nmiPending := p.nmiPending.getD s.nmiPending
    viaA := p.viaA.getD s.viaA
    viaB := p.viaB.getD s.viaB
    vic := p.vic.getD s.vic }

/-- The starting state of an initialised machine (R475, R477, R479): a cold start, or a snapshot start when there is a
snapshot and the sniff did not fail, whatever the program type (DESIGN CHOICE, log entry 25). -/
def startState (q : InitRequest) (cold : State) : Result State :=
  match q.snapshot, q.sniff with
  | _, .failed => .next cold
  | none, _ => .next cold
  | some p, _ =>
    match snapshotRefusal p with
    | some e => .refused e
    | none => .next (startSnapshot p cold)

/-- `init` (R475, R477): validation, the expansion size, the memory, the starting state. The machine is then
`ready/paused`. A failed sniff is no failure: `sniffFailed` reports it, and a cartridge image is placed as
without it (DESIGN CHOICE, log entry 35). DESIGN CHOICE (log entry 33): with an unrecognised size and
a missing buffer together, the size is the failure named; R477 gives no order. -/
def initMachine (q : InitRequest) : Result State :=
  match resolveSize q with
  | .error e => .fault e
  | .ok size =>
    match wholeBuffer 0x1000 q.charRom, wholeBuffer 0x2000 q.basicRom, wholeBuffer 0x2000 q.kernelRom with
    | some chars, some basic, some kernel =>
      let cfg := { q.cfg with expansion := size, cartridgeSize := (cartridgeImage q).length }
      startState q (resetState q.draw (powerOn cfg q (initMemory cfg q chars basic kernel)))
    | _, _, _ => .fault .missingRom

/-- The report "could not determine RAM/program configuration" of R477. -/
def sniffFailed (q : InitRequest) : Bool := q.sniff == .failed

/-! ## The pixel sink's view (R409, R435) -/

/-- The RGBA value the pixel sink gives a unit (R409, R435): a colour index through `palette`, no value for a blank. -/
def unitColour (u : OutUnit) : Option (BitVec 32) :=
  match u with
  | .pixel c => some (Config.palette c)
  | .blank _ => none

end Sys2Proof.Machine
end

