-- ==== Sys2Proof/WellFormed.lean ====
section
/-! DEFINITION. What makes a configuration well formed (R10, R401, R440, R444, R450). An instruction needs no check: an operand byte
or word of any value has an encoding (R126 to R136), so every term of `Instr` is well formed by its type, and which byte
sequences are instructions is the decoder's question (R137, R140). -/

namespace Sys2Proof

/-- The output units of one cycle (R401, R409): `4 * upp` with `upp = 2`. -/
def unitsPerCycle : Nat := 8

/-- The sync lines fit before the first visible line (R401). -/
def Timing.syncFits (t : Timing) : Bool := decide (t.vsShort1 + t.vsLong + t.vsShort2 ≤ t.firstVisible)

/-- The visible cycles of a line are in order and inside the line (R401). -/
def Timing.cyclesFit (t : Timing) : Bool := decide (t.hvisFirst ≤ t.hvisLast) && decide (t.hvisLast < t.lineCycles)

/-- The swallowed units fit in one cycle (R401). -/
def Timing.swallowFits (t : Timing) : Bool :=
  decide (t.leadSwallow ≤ unitsPerCycle) && decide (t.trailSwallow ≤ unitsPerCycle)

/-- Timing constants as R401 asks. -/
def Timing.wf (t : Timing) : Bool := t.syncFits && t.cyclesFit && t.swallowFits

/-- The first visible line is a line of the frame (R401). -/
def Config.visibleFits (c : Config) : Bool := decide (c.timing.firstVisible < c.lines)

/-- `voice_clock_unit` is a positive integer (R440). -/
def Config.voiceUnitPositive (c : Config) : Bool := decide (0 < c.voiceClockUnit)

/-- `sample_ratio` is a positive rational (R444): both its parts are positive. -/
def Config.sampleRatioPositive (c : Config) : Bool := decide (0 < c.sampleRate) && decide (0 < c.timing.clockHz)

/-- `lfsr_reset` is not zero (R450). -/
def Config.lfsrNonzero (c : Config) : Bool := c.lfsrReset != 0#16

/-- A configuration whose OPEN parameters lie where R401, R440, R444 and R450 put them. DESIGN CHOICE (log entry 29): the interlace
bit of `vic_reset_values` is not barred. -/
def Config.wf (c : Config) : Bool :=
  c.timing.wf && c.visibleFits && c.voiceUnitPositive && c.sampleRatioPositive && c.lfsrNonzero

end Sys2Proof
end

