-- ==== Sys2Proof/Safety.lean ====
section
/-! DEFINITION. What counts as a safe run and the terms the statements use: the shape of an instruction, the conditions under
which it completes, what it keeps, and the invariant of the machine. -/

namespace Sys2Proof

open Sys2Proof.Machine

/-! ## The shape of an instruction: its mnemonic and its addressing mode (R123, R139) -/

/-- The instructions that read an operand byte `M` (R14). -/
inductive ReadOp where
  | lda | ldx | ldy | adc | sbc | and | ora | eor | cmp | cpx | cpy | bit
  deriving DecidableEq, Repr

/-- The stores (R154 to R156). -/
inductive StoreOp where
  | sta | stx | sty
  deriving DecidableEq, Repr

/-- The shifts, rotates, increments and decrements of a byte (R206, R207, R231 to R234). -/
inductive ModifyOp where
  | asl | lsr | rol | ror | inc | dec
  deriving DecidableEq, Repr

/-- The implied instructions that change registers or flags only (R157 to R162, R208 to R211, R260 to R267). -/
inductive RegisterOp where
  | tax | tay | txa | tya | tsx | txs | inx | iny | dex | dey | clc | sec | cli | sei | cld | sed | clv | nop
  deriving DecidableEq, Repr

/-- The branches (R241 to R248). -/
inductive BranchOp where
  | bcc | bcs | beq | bne | bmi | bpl | bvc | bvs
  deriving DecidableEq, Repr

/-- What an instruction is: a mnemonic with the operand form of its addressing mode. -/
inductive Shape where
  /-- Reads its operand byte from memory. -/
  | read (op : ReadOp) (o : Operand)
  /-- Has its operand byte in the instruction (R126). -/
  | imm (op : ReadOp) (v : Byte)
  | store (op : StoreOp) (o : Operand)
  /-- A read-modify-write of memory (R78). -/
  | modify (op : ModifyOp) (o : Operand)
  /-- The accumulator form (R125). -/
  | acc (op : ModifyOp)
  | register (op : RegisterOp)
  | branch (op : BranchOp) (d : Byte)
  | pha | php | pla | plp
  | jmpAbs (a : Word)
  | jmpInd (a : Word)
  | jsr (a : Word)
  | rts | brk | rti
  deriving DecidableEq, Repr

/-- The shape of every instruction, in the order of the opcode table. -/
def Instr.shape : Instr → Shape
  | .brk => .brk
  | .oraIzx z => .read .ora (.izx z)
  | .oraZp z => .read .ora (.zp z)
  | .aslZp z => .modify .asl (.zp z)
  | .php => .php
  | .oraImm v => .imm .ora v
  | .aslAcc => .acc .asl
  | .oraAbs a => .read .ora (.abs a)
  | .aslAbs a => .modify .asl (.abs a)
  | .bpl d => .branch .bpl d
  | .oraIzy z => .read .ora (.izy z)
  | .oraZpx z => .read .ora (.zpx z)
  | .aslZpx z => .modify .asl (.zpx z)
  | .clc => .register .clc
  | .oraAby a => .read .ora (.aby a)
  | .oraAbx a => .read .ora (.abx a)
  | .aslAbx a => .modify .asl (.abx a)
  | .jsr a => .jsr a
  | .andIzx z => .read .and (.izx z)
  | .bitZp z => .read .bit (.zp z)
  | .andZp z => .read .and (.zp z)
  | .rolZp z => .modify .rol (.zp z)
  | .plp => .plp
  | .andImm v => .imm .and v
  | .rolAcc => .acc .rol
  | .bitAbs a => .read .bit (.abs a)
  | .andAbs a => .read .and (.abs a)
  | .rolAbs a => .modify .rol (.abs a)
  | .bmi d => .branch .bmi d
  | .andIzy z => .read .and (.izy z)
  | .andZpx z => .read .and (.zpx z)
  | .rolZpx z => .modify .rol (.zpx z)
  | .sec => .register .sec
  | .andAby a => .read .and (.aby a)
  | .andAbx a => .read .and (.abx a)
  | .rolAbx a => .modify .rol (.abx a)
  | .rti => .rti
  | .eorIzx z => .read .eor (.izx z)
  | .eorZp z => .read .eor (.zp z)
  | .lsrZp z => .modify .lsr (.zp z)
  | .pha => .pha
  | .eorImm v => .imm .eor v
  | .lsrAcc => .acc .lsr
  | .jmpAbs a => .jmpAbs a
  | .eorAbs a => .read .eor (.abs a)
  | .lsrAbs a => .modify .lsr (.abs a)
  | .bvc d => .branch .bvc d
  | .eorIzy z => .read .eor (.izy z)
  | .eorZpx z => .read .eor (.zpx z)
  | .lsrZpx z => .modify .lsr (.zpx z)
  | .cli => .register .cli
  | .eorAby a => .read .eor (.aby a)
  | .eorAbx a => .read .eor (.abx a)
  | .lsrAbx a => .modify .lsr (.abx a)
  | .rts => .rts
  | .adcIzx z => .read .adc (.izx z)
  | .adcZp z => .read .adc (.zp z)
  | .rorZp z => .modify .ror (.zp z)
  | .pla => .pla
  | .adcImm v => .imm .adc v
  | .rorAcc => .acc .ror
  | .jmpInd a => .jmpInd a
  | .adcAbs a => .read .adc (.abs a)
  | .rorAbs a => .modify .ror (.abs a)
  | .bvs d => .branch .bvs d
  | .adcIzy z => .read .adc (.izy z)
  | .adcZpx z => .read .adc (.zpx z)
  | .rorZpx z => .modify .ror (.zpx z)
  | .sei => .register .sei
  | .adcAby a => .read .adc (.aby a)
  | .adcAbx a => .read .adc (.abx a)
  | .rorAbx a => .modify .ror (.abx a)
  | .staIzx z => .store .sta (.izx z)
  | .styZp z => .store .sty (.zp z)
  | .staZp z => .store .sta (.zp z)
  | .stxZp z => .store .stx (.zp z)
  | .dey => .register .dey
  | .txa => .register .txa
  | .styAbs a => .store .sty (.abs a)
  | .staAbs a => .store .sta (.abs a)
  | .stxAbs a => .store .stx (.abs a)
  | .bcc d => .branch .bcc d
  | .staIzy z => .store .sta (.izy z)
  | .styZpx z => .store .sty (.zpx z)
  | .staZpx z => .store .sta (.zpx z)
  | .stxZpy z => .store .stx (.zpy z)
  | .tya => .register .tya
  | .staAby a => .store .sta (.aby a)
  | .txs => .register .txs
  | .staAbx a => .store .sta (.abx a)
  | .ldyImm v => .imm .ldy v
  | .ldaIzx z => .read .lda (.izx z)
  | .ldxImm v => .imm .ldx v
  | .ldyZp z => .read .ldy (.zp z)
  | .ldaZp z => .read .lda (.zp z)
  | .ldxZp z => .read .ldx (.zp z)
  | .tay => .register .tay
  | .ldaImm v => .imm .lda v
  | .tax => .register .tax
  | .ldyAbs a => .read .ldy (.abs a)
  | .ldaAbs a => .read .lda (.abs a)
  | .ldxAbs a => .read .ldx (.abs a)
  | .bcs d => .branch .bcs d
  | .ldaIzy z => .read .lda (.izy z)
  | .ldyZpx z => .read .ldy (.zpx z)
  | .ldaZpx z => .read .lda (.zpx z)
  | .ldxZpy z => .read .ldx (.zpy z)
  | .clv => .register .clv
  | .ldaAby a => .read .lda (.aby a)
  | .tsx => .register .tsx
  | .ldyAbx a => .read .ldy (.abx a)
  | .ldaAbx a => .read .lda (.abx a)
  | .ldxAby a => .read .ldx (.aby a)
  | .cpyImm v => .imm .cpy v
  | .cmpIzx z => .read .cmp (.izx z)
  | .cpyZp z => .read .cpy (.zp z)
  | .cmpZp z => .read .cmp (.zp z)
  | .decZp z => .modify .dec (.zp z)
  | .iny => .register .iny
  | .cmpImm v => .imm .cmp v
  | .dex => .register .dex
  | .cpyAbs a => .read .cpy (.abs a)
  | .cmpAbs a => .read .cmp (.abs a)
  | .decAbs a => .modify .dec (.abs a)
  | .bne d => .branch .bne d
  | .cmpIzy z => .read .cmp (.izy z)
  | .cmpZpx z => .read .cmp (.zpx z)
  | .decZpx z => .modify .dec (.zpx z)
  | .cld => .register .cld
  | .cmpAby a => .read .cmp (.aby a)
  | .cmpAbx a => .read .cmp (.abx a)
  | .decAbx a => .modify .dec (.abx a)
  | .cpxImm v => .imm .cpx v
  | .sbcIzx z => .read .sbc (.izx z)
  | .cpxZp z => .read .cpx (.zp z)
  | .sbcZp z => .read .sbc (.zp z)
  | .incZp z => .modify .inc (.zp z)
  | .inx => .register .inx
  | .sbcImm v => .imm .sbc v
  | .nop => .register .nop
  | .cpxAbs a => .read .cpx (.abs a)
  | .sbcAbs a => .read .sbc (.abs a)
  | .incAbs a => .modify .inc (.abs a)
  | .beq d => .branch .beq d
  | .sbcIzy z => .read .sbc (.izy z)
  | .sbcZpx z => .read .sbc (.zpx z)
  | .incZpx z => .modify .inc (.zpx z)
  | .sed => .register .sed
  | .sbcAby a => .read .sbc (.aby a)
  | .sbcAbx a => .read .sbc (.abx a)
  | .incAbx a => .modify .inc (.abx a)

namespace Machine

/-! ## When an access is made and not refused -/

/-- The video/audio chip can run its cycle: its fetch state is not the unreachable one (R427). -/
def Ready (s : State) : Prop := s.vic.fs ≠ .inMatrixX

/-- An access to this address is not refused for the address (R93). -/
def Accessible (cfg : Config) (a : Word) : Prop := region cfg a ≠ .mirror

/-- A write of this byte to this address is not refused: for the address (R93), for interlace (R413), or for a mode of a timer
chip (R367). -/
def WriteAllowed (cfg : Config) (a : Word) (v : Byte) : Prop :=
  match region cfg a with
  | .mirror => False
  | .vic => ¬(registerIndex a = 0#4 ∧ bitOf v 7 = true)
  | .viaA | .viaB =>
    (registerIndex a = 11#4 → acrRefusal v = none) ∧ (registerIndex a = 12#4 → pcrRefusal v = none)
  | .ram | .rom | .colour | .absent => True

/-- The effective address of an operand form (R14, R127 to R134). The pointers of the indirect forms lie in the zero page, which
is RAM. -/
def targetOf (o : Operand) (s : State) : Word := effectiveAddress o s.regs (cell s.mem)

/-- The dummy read of the un-carried address of an indexed form, where it is made (R525, R526): on a page cross, or `always` for a
store or a read-modify-write. -/
def dummyReads (always : Bool) (base : Word) (i : Byte) : List Word :=
  if always || pageCrossed base (indexed base i) then [unfixed base i] else []

/-- The addresses an operand form reads between its operand bytes and its access, one a clock (R521, R523, R525, R526). -/
def addressReads (always : Bool) (o : Operand) (s : State) : List Word :=
  match o with
  | .zp _ | .abs _ => []
  | .zpx z | .zpy z => [zext16 z]
  | .abx a => dummyReads always a s.regs.x
  | .aby a => dummyReads always a s.regs.y
  | .izx z => [zext16 z, zext16 (z + s.regs.x), zext16 (z + s.regs.x + 1)]
  | .izy z =>
    [zext16 z, zext16 (z + 1)] ++
      dummyReads always (wordOf (cell s.mem (zext16 (z + 1))) (cell s.mem (zext16 z))) s.regs.y

/-- No read of an operand form's address clocks is refused (R93, R516): the zero page is RAM, so this is about the dummy read of an
indexed form, where it is made. -/
def DummyAllowed (always : Bool) (o : Operand) (s : State) : Prop :=
  ∀ a ∈ addressReads always o s, Accessible s.cfg a

/-- The clocks an operand form takes between its operand bytes and its access. -/
def addressClocks (always : Bool) (o : Operand) (s : State) : Nat := (addressReads always o s).length

/-- The state after one clock for each address, each reading it. -/
def readClocks : List Word → State → Result State
  | [], s => .next s
  | a :: rest, s => andThen (clock (.read a) .keep s) fun o => readClocks rest o.2

/-- After one clock for each address of `before`, a clock that reads `a` shows the byte `m` and leaves `t`. Which byte that is at
each kind of address, `Obligations.ClockOrder` says. -/
def ReadAfter (before : List Word) (a : Word) (s : State) (m : Byte) (t : State) : Prop :=
  ∃ u o, readClocks before s = .next u ∧ clock (.read a) .keep u = .next (o, t) ∧ o.byte = m

/-! ## What a read gives and what a write leaves -/

/-- The register of a timer chip that reads back what was written, at the indexes where that holds (R347). -/
def storedViaRegister (r : BitVec 4) (c : Via) : Option Byte :=
  match r.toNat with
  | 2 => some c.ddrb
  | 3 => some c.ddra
  | 6 => some (loByte c.t1l)
  | 7 => some (hiByte c.t1l)
  | 10 => some c.sr
  | 11 => some c.acr
  | 12 => some c.pcr
  | 14 => some (1#1 ++ c.ier)
  | _ => none

/-- The register of the video/audio chip that reads back what was written, at the indexes where that holds (R410). -/
def storedVicRegister (r : BitVec 4) (g : VicRegs) : Option Byte :=
  match r.toNat with
  | 3 | 4 | 6 | 7 | 8 | 9 => none
  | _ => some (vicReg g r)

/-- The stored register an address selects, where it selects one whose read gives the stored value. -/
def storedRegister (s : State) (a : Word) : Option Byte :=
  match region s.cfg a with
  | .vic => storedVicRegister (registerIndex a) s.vic.reg
  | .viaA => storedViaRegister (registerIndex a) s.viaA
  | .viaB => storedViaRegister (registerIndex a) s.viaB
  | .ram | .rom | .colour | .mirror | .absent => none

/-- `m` is a byte a read of this address can give in this state (R80): the cell's byte, the colour nibble (R92), the stored
register. -/
def ReadsByte (s : State) (a : Word) (m : Byte) : Prop :=
  (isMemory s.cfg a = true → m = cell s.mem a) ∧
  (region s.cfg a = .colour → m.extractLsb' 0 4 = colourNibble s.mem a) ∧
  ∀ v, storedRegister s a = some v → m = v

/-- The byte the cell at `a` holds after a write of `v` to `a` (R81, R88, R92). -/
def cellAfterWrite (s : State) (a : Word) (v : Byte) : Byte :=
  match region s.cfg a with
  | .ram => v
  | .colour => v &&& 0x0F#8
  | .rom | .vic | .viaA | .viaB | .mirror | .absent => cell s.mem a

/-- Memory after one byte was written to `a`: that cell as R81 says, every other cell as before. -/
def WritesCell (s t : State) (a : Word) (v : Byte) : Prop :=
  cell t.mem a = cellAfterWrite s a v ∧ ∀ b, b ≠ a → cell t.mem b = cell s.mem b

/-- The registers of a timer chip that only a write or a reset changes (R347, R365). -/
structure Programmed where
  ora : Byte
  orb : Byte
  ddra : Byte
  ddrb : Byte
  t1l : Word
  t2l : Byte
  sr : Byte
  acr : Byte
  pcr : Byte
  ier : BitVec 7
  ca2Out : Bool
  cb2Out : Bool
  deriving DecidableEq, Repr

/-- The programmed registers of a timer chip. -/
def Via.programmed (c : Via) : Programmed :=
  ⟨c.ora, c.orb, c.ddra, c.ddrb, c.t1l, c.t2l, c.sr, c.acr, c.pcr, c.ier, c.ca2Out, c.cb2Out⟩

/-- The programmed registers of the three chips are as before. -/
structure ChipsKept (s t : State) : Prop where
  vicRegs : t.vic.reg = s.vic.reg
  viaA : t.viaA.programmed = s.viaA.programmed
  viaB : t.viaB.programmed = s.viaB.programmed

/-- The programmed registers of a timer chip after writes of the bytes `vs` to its register `r` (R347). -/
def ViaWritten (r : BitVec 4) : List Byte → Via → Programmed → Prop
  | [], c, p => p = c.programmed
  | v :: vs, c, p => ∃ c', viaWrite r v c = .next c' ∧ ViaWritten r vs c' p

/-- The programmed registers of the chips after writes of the bytes `vs` to `a`: the chip that owns `a`, if one does, has taken
them in order, and the others are as before. -/
def ChipsWritten (s t : State) (a : Word) (vs : List Byte) : Prop :=
  t.vic.reg = (if region s.cfg a = .vic then vs.foldl (fun g v => vicRegWrite (registerIndex a) v g) s.vic.reg
    else s.vic.reg) ∧
  ViaWritten (registerIndex a) (if region s.cfg a = .viaA then vs else []) s.viaA t.viaA.programmed ∧
  ViaWritten (registerIndex a) (if region s.cfg a = .viaB then vs else []) s.viaB t.viaB.programmed

/-! ## What runs on beside an instruction: the inputs, the clock count, the sink -/

/-- The inputs and the NMI latch after `n` clocks that do not enter an NMI sequence: each clock samples the inputs (R483) and
the NMI line (R304). Only the input and NMI fields of the answer are meant. -/
def inputsAfter : Nat → State → State
  | 0, s => s
  | n + 1, s => inputsAfter n (sampleNmi (sampleInputs s))

/-- What `n` clocks leave: the configuration, the run state and the sequence as before, the clock count advanced, the inputs of
those clocks sampled, and `n` outputs added to the sink. -/
structure Ran (n : Nat) (s t : State) : Prop where
  cfg : t.cfg = s.cfg
  run : t.run = s.run
  seq : t.seq = s.seq
  clock : t.clock = s.clock + n
  inp : t.inp = (inputsAfter n s).inp
  inputs : t.inputs = (inputsAfter n s).inputs
  nmiPrev : t.nmiPrev = (inputsAfter n s).nmiPrev
  sink : t.sink.drop n = s.sink
  sinkLength : t.sink.length = s.sink.length + n

/-- What an instruction that takes no interrupt keeps over its `n` clocks: besides `Ran`, the pending NMI latch is only set by
the line, never cleared (R304, R306). -/
structure Kept (n : Nat) (s t : State) : Prop where
  ran : Ran n s t
  nmiPending : t.nmiPending = (inputsAfter n s).nmiPending

/-! ## Completion of the instruction shapes -/

/-- Every instruction of this mnemonic that reads an operand byte completes and turns the registers into `f M`: the immediate
form at once, a memory form after its address clocks and one read clock, whose byte `M` is and whose state it leaves, for every
operand form whose accesses are not refused. Memory and the chips' programmed registers are unchanged, and the latch holds the
byte read (R83). -/
def ReadCompletes (op : ReadOp) (f : Byte → Regs → Regs) : Prop :=
  (∀ i v s, i.shape = .imm op v → exec i s = .next (s.withRegs (f v s.regs))) ∧
  ∀ i o s, i.shape = .read op o → Ready s → DummyAllowed false o s → Accessible s.cfg (targetOf o s) →
    ∃ t m, exec i s = .next t ∧ ReadsByte s (targetOf o s) m ∧
      (∃ w, ReadAfter (addressReads false o s) (targetOf o s) s m w ∧ t = w.withRegs (f m s.regs)) ∧
      t.regs = f m s.regs ∧ t.latch = m ∧ (∀ b, cell t.mem b = cell s.mem b) ∧ ChipsKept s t ∧
      Kept (addressClocks false o s + 1) s t

/-- Every store of this mnemonic completes, for every operand form whose accesses are not refused: it writes the byte `src` to
its effective address, in the clock after its address clocks, and changes no register and no flag. -/
def StoreCompletes (op : StoreOp) (src : Regs → Byte) : Prop :=
  ∀ i o s, i.shape = .store op o → Memory.wf s.mem = true → Ready s → DummyAllowed true o s →
    WriteAllowed s.cfg (targetOf o s) (src s.regs) →
    ∃ t, exec i s = .next t ∧
      (∃ u w, readClocks (addressReads true o s) s = .next u ∧
        clock (.write (targetOf o s) (src s.regs)) .keep u = .next (w, t)) ∧
      t.regs = s.regs ∧ t.latch = src s.regs ∧
      WritesCell s t (targetOf o s) (src s.regs) ∧ ChipsWritten s t (targetOf o s) [src s.regs] ∧
      Kept (addressClocks true o s + 1) s t

/-- Every read-modify-write of this mnemonic completes, for every operand form whose accesses are not refused: with `m` the byte
read, it writes `m` and then `res m` to its effective address (R527), and its flags are `flags m`. -/
def ModifyCompletes (op : ModifyOp) (res : Byte → Flags → Byte) (flags : Byte → Flags → Flags) : Prop :=
  ∀ i o s, i.shape = .modify op o → Memory.wf s.mem = true → Ready s → DummyAllowed true o s →
    Accessible s.cfg (targetOf o s) →
    (∀ v, storedRegister s (targetOf o s) = some v →
      WriteAllowed s.cfg (targetOf o s) v ∧ WriteAllowed s.cfg (targetOf o s) (res v s.regs.p)) →
    ∃ t m, exec i s = .next t ∧ ReadsByte s (targetOf o s) m ∧
      (∃ u o1 v o2 w, ReadAfter (addressReads true o s) (targetOf o s) s m u ∧
        clock (.write (targetOf o s) m) .keep u = .next (o1, v) ∧
        clock (.write (targetOf o s) (res m s.regs.p)) .keep v = .next (o2, w) ∧
        t = w.withRegs { s.regs with p := flags m s.regs.p }) ∧
      t.regs = { s.regs with p := flags m s.regs.p } ∧
      t.latch = res m s.regs.p ∧ WritesCell s t (targetOf o s) (res m s.regs.p) ∧
      ChipsWritten s t (targetOf o s) [m, res m s.regs.p] ∧ Kept (addressClocks true o s + 3) s t

/-- The latch after an instruction whose only access was a read at `PC` (R84). -/
def LatchAfterFetch (s t : State) : Prop :=
  isMemory s.cfg s.regs.pc = true →
    t.latch = if s.cfg.latchOnFetch then cell s.mem s.regs.pc else s.latch

/-- An instruction of one byte, the opcode `op`, whose one clock after it is the dummy read of the next byte (R522) completes and
turns the registers into `f` of them; memory and the chips' programmed registers are unchanged. -/
def ImpliedCompletes (op : Byte) (i : Instr) (f : Regs → Regs) : Prop :=
  encode i = [op] ∧
  ∀ s, Ready s → Accessible s.cfg s.regs.pc →
    ∃ t, exec i s = .next t ∧ t.regs = f s.regs ∧ LatchAfterFetch s t ∧ (∀ b, cell t.mem b = cell s.mem b) ∧
      ChipsKept s t ∧ Kept 1 s t

/-- A branch is its opcode and its offset byte, and it completes: not taken, it changes nothing and takes no more clocks; taken,
PC becomes the target, after one clock or, to another page, two (R240, R531). -/
def BranchCompletes (op : BranchOp) (code : Byte) (taken : Flags → Bool) : Prop :=
  ∀ i d s, i.shape = .branch op d →
    encode i = [code, d] ∧
    (taken s.regs.p = false → exec i s = .next s) ∧
    (taken s.regs.p = true → Ready s → Accessible s.cfg s.regs.pc →
      (pageCrossed s.regs.pc (branchTarget s.regs.pc d) = true → Accessible s.cfg (branchUnfixed s.regs.pc d)) →
      ∃ t, exec i s = .next t ∧ t.regs = { s.regs with pc := s.regs.pc + d.signExtend 16 } ∧
        (∀ b, cell t.mem b = cell s.mem b) ∧ ChipsKept s t ∧
        Kept (if pageCrossed s.regs.pc (branchTarget s.regs.pc d) then 2 else 1) s t)

/-! ## Interrupts -/

/-- The machine is at an instruction boundary that begins the instruction at `PC`: initialised, no sequence in progress, no NMI
pending or arriving, and no IRQ that `I` lets through (R305, R306). -/
structure AtInstruction (s : State) : Prop where
  run : s.run ≠ .uninitialized
  seq : s.seq = none
  nmi : nmiSeen s = false
  irq : irqLine s = false ∨ s.regs.p.i = true

/-- The word a vector holds (R94): the vectors lie in ROM. -/
def vectorWord (s : State) (vector : Word) : Word := wordOf (cell s.mem (vector + 1)) (cell s.mem vector)

/-- What an interrupt entry leaves (R270, R310): `ret` and the flags pushed with B equal to `b`, `S` down by 3, `I` set and
every other flag kept, `PC` from the vector, every other byte of memory and the chips' programmed registers as before. -/
structure Entered (n : Nat) (ret : Word) (b : Bool) (vector : Word) (s t : State) : Prop where
  regs : t.regs =
    { s.regs with s := s.regs.s - 3, pc := vectorWord s vector, p := { s.regs.p with i := true } }
  high : cell t.mem (stackAddr s.regs.s) = hiByte ret
  low : cell t.mem (stackAddr (s.regs.s - 1)) = loByte ret
  status : cell t.mem (stackAddr (s.regs.s - 2)) = packP s.regs.p b
  frame : ∀ a, a ≠ stackAddr s.regs.s → a ≠ stackAddr (s.regs.s - 1) → a ≠ stackAddr (s.regs.s - 2) →
    cell t.mem a = cell s.mem a
  chips : ChipsKept s t
  ran : Ran n s t

/-- The pending NMI after `n` clocks of which the `k`-th clears it (R306, R530). -/
def pendingAfterClear (k n : Nat) (s : State) : Bool :=
  (inputsAfter (n - k) ((inputsAfter k s).withNmiPending false)).nmiPending

/-- The fetch of an instruction before its meaning runs takes this many clocks (R121): its length, but 2 for `JSR`, whose last
byte is fetched in its sixth cycle (R528). -/
def fetchClocks (i : Instr) : Nat :=
  match i.shape with
  | .jsr _ => 2
  | _ => (encode i).length

/-- The bytes of an instruction stand in memory from `PC` on. -/
def InstrAtPc (i : Instr) (s : State) : Prop :=
  ∀ k v, (encode i)[k]? = some v →
    isMemory s.cfg (s.regs.pc + BitVec.ofNat 16 k) = true ∧ cell s.mem (s.regs.pc + BitVec.ofNat 16 k) = v

/-! ## Side effects of a timer chip's registers (R347) -/

/-- The flags a read of a timer chip's register clears (R348, R349, R352, R355, R359). -/
def clearedByRead (r : BitVec 4) (pcr : Byte) : BitVec 7 :=
  match r.toNat with
  | 0 => if independentMode (cb2Mode pcr) then 0x10#7 else 0x18#7
  | 1 => if independentMode (ca2Mode pcr) then 0x02#7 else 0x03#7
  | 4 => 0x40#7
  | 8 => 0x20#7
  | 10 => 0x04#7
  | _ => 0#7

/-- The flags a write of `v` to a timer chip's register clears (R348, R349, R351, R355, R359, R360). -/
def clearedByWrite (r : BitVec 4) (v : Byte) (pcr : Byte) : BitVec 7 :=
  match r.toNat with
  | 0 => if independentMode (cb2Mode pcr) then 0x10#7 else 0x18#7
  | 1 => if independentMode (ca2Mode pcr) then 0x02#7 else 0x03#7
  | 5 | 7 => 0x40#7
  | 9 => 0x20#7
  | 10 => 0x04#7
  | 13 => v.extractLsb' 0 7
  | _ => 0#7

/-! ## The screen-code column (R426) -/

/-- The column a fetch is at: the configured columns less those that remain. -/
def fetchColumn (c : Vic) : BitVec 12 := (columnCount c.reg - c.colsLeft).setWidth 12

/-- Within one matrix line the video-matrix counter is the latch plus the column (R422, R425, R426): on the way into the line it
is the latch, at a screen-code fetch the latch plus the column, and one more at the character fetch after it. -/
def ColumnLaw (c : Vic) : Prop :=
  match c.fs with
  | .matrixDelay1 | .matrixDelay2 | .matrixDelay3 => c.vmc = c.vmcLatch ∧ c.colsLeft = columnCount c.reg
  | .screenCode => c.vmc = c.vmcLatch + fetchColumn c ∧ c.colsLeft ≤ columnCount c.reg ∧ c.colsLeft ≠ 0#7
  | .charData => c.vmc = c.vmcLatch + fetchColumn c + 1 ∧ c.colsLeft ≤ columnCount c.reg ∧ c.colsLeft ≠ 0#7
  | .outsideMatrix | .inMatrixY | .inMatrixX | .matrixLine | .matrixEnd => True

/-! ## The invariant -/

/-- The control registers of a timer chip hold no refused mode (R367). -/
def Via.legal (c : Via) : Prop := acrRefusal c.acr = none ∧ pcrRefusal c.pcr = none

/-- The raster, the fetch counters, the prescaler, the accumulator and the noise register of the video/audio chip lie where
R402, R404, R421, R422, R427 and R443 put them. -/
structure Vic.Legal (cfg : Config) (c : Vic) : Prop where
  h : c.h < cfg.timing.lineCycles
  v : c.v < cfg.lines
  vPend : c.vPend = true → c.h = 0
  fs : c.fs ≠ .inMatrixX
  columns : c.fs = .screenCode ∨ c.fs = .charData → c.colsLeft ≠ 0#7
  rows : c.fs ≠ .outsideMatrix → c.fs ≠ .matrixLine → c.rowsLeft ≠ 0#6
  apre : c.apre < 16 * cfg.voiceClockUnit
  sacc : cfg.sampleRate ≤ cfg.timing.clockHz → c.sacc < cfg.timing.clockHz
  lfsr : c.lfsr ≠ 0#16

/-- The invariant every step keeps: memory in canonical form, four-bit colour cells (R92), no refused mode in a timer chip
(R367), the video/audio chip's state where the rules put it, and a sequence in progress with a cycle left to run (R30). -/
structure Invariant (s : State) : Prop where
  cfg : s.cfg.wf = true
  mem : Memory.wf s.mem = true
  colour : ∀ a, region s.cfg a = .colour → cell s.mem a &&& 0xF0#8 = 0#8
  viaA : s.viaA.legal
  viaB : s.viaB.legal
  vic : s.vic.Legal s.cfg
  seq : ∀ f, s.seq = some f → ∃ r b act next, inFlightMicro f = .cycle r b act next

/-! ## Safe runs -/

/-- The step goes on: it answers a next state, not a fault and not a refusal. -/
def SafeStep (s : State) : Prop := ∃ t, step s = .next t

/-- `n` steps, each answering a next state. -/
def runSteps : Nat → State → Result State
  | 0, s => .next s
  | n + 1, s => andThen (step s) (runSteps n)

/-- A run of any length goes on. -/
def SafeRun (s : State) : Prop := ∀ n, ∃ t, runSteps n s = .next t

/-- `n` calls of `step_cycle()` (R470). -/
def runCycles : Nat → State → Result State
  | 0, s => .next s
  | n + 1, s => andThen (stepCycle s) (runCycles n)

/-- One cycle of a timer chip for each of the given input levels (R368). -/
def viaCycles : List PortInputs → Via → Via
  | [], c => c
  | pins :: rest, c => viaCycles rest (viaCycle pins c)

/-- `n` raster advances (R421). -/
def rasterSteps (cfg : Config) : Nat → Vic → Vic
  | 0, c => c
  | n + 1, c => rasterSteps cfg n (rasterStep cfg c)

/-- `n` clocks of a tone voice (R441). -/
def toneClocks (f : BitVec 7) : Nat → Voice → Voice
  | 0, w => w
  | n + 1, w => toneClocks f n (toneClock f w)

end Machine

end Sys2Proof
end

