-- ==== Sys2Proof/Certificates/Slice0/Obligations.lean ====
section
/-! DEFINITION. The statements for the provers, in the order of OBLIGATIONS.json. -/

open Sys2Proof Sys2Proof.Machine

/-! ## Instructions with an operand byte -/

/-- R151 to R153: `LDA`, `LDX` and `LDY` in every form complete, write the operand byte to their register and set N and Z from
it, and change no other register, flag or byte of memory. -/
def Obligations.LoadsWriteTheirRegister : Prop :=
  ReadCompletes .lda (fun m r => { r with a := m, p := { r.p with n := m.getLsbD 7, z := m == 0#8 } }) ∧
  ReadCompletes .ldx (fun m r => { r with x := m, p := { r.p with n := m.getLsbD 7, z := m == 0#8 } }) ∧
  ReadCompletes .ldy (fun m r => { r with y := m, p := { r.p with n := m.getLsbD 7, z := m == 0#8 } })

/-- R197, R198: `ADC` and `SBC` in every form complete, compute by `AddBin` or `SubBin` when D is 0 and by `AddDec` or `SubDec`
when D is 1, and write A, N, V, Z and C and nothing else. With D = 1 the flags rest on the spec's decision D6. -/
def Obligations.AdcSbcWriteTheAccumulator : Prop :=
  ReadCompletes .adc (fun m r =>
    let q := if r.p.d then addDec r.a m r.p.c else addBin r.a m r.p.c
    { r with a := q.result, p := { r.p with n := q.n, v := q.v, z := q.z, c := q.c } }) ∧
  ReadCompletes .sbc (fun m r =>
    let q := if r.p.d then subDec r.a m r.p.c else subBin r.a m r.p.c
    { r with a := q.result, p := { r.p with n := q.n, v := q.v, z := q.z, c := q.c } })

/-- R199 to R201: `AND`, `ORA` and `EOR` in every form complete, write A and set N and Z from it, and change nothing else. -/
def Obligations.LogicWritesTheAccumulator : Prop :=
  ReadCompletes .and (fun m r =>
    { r with a := r.a &&& m, p := { r.p with n := (r.a &&& m).getLsbD 7, z := r.a &&& m == 0#8 } }) ∧
  ReadCompletes .ora (fun m r =>
    { r with a := r.a ||| m, p := { r.p with n := (r.a ||| m).getLsbD 7, z := r.a ||| m == 0#8 } }) ∧
  ReadCompletes .eor (fun m r =>
    { r with a := r.a ^^^ m, p := { r.p with n := (r.a ^^^ m).getLsbD 7, z := r.a ^^^ m == 0#8 } })

/-- R202 to R204: `CMP`, `CPX` and `CPY` in every form complete and write only C (the register is not below the operand), Z
(they are equal) and N (bit 7 of the difference), whatever D holds. -/
def Obligations.ComparesWriteFlagsOnly : Prop :=
  ReadCompletes .cmp (fun m r =>
    { r with p := { r.p with c := decide (m.toNat ≤ r.a.toNat), z := decide (r.a = m), n := (r.a - m).getLsbD 7 } }) ∧
  ReadCompletes .cpx (fun m r =>
    { r with p := { r.p with c := decide (m.toNat ≤ r.x.toNat), z := decide (r.x = m), n := (r.x - m).getLsbD 7 } }) ∧
  ReadCompletes .cpy (fun m r =>
    { r with p := { r.p with c := decide (m.toNat ≤ r.y.toNat), z := decide (r.y = m), n := (r.y - m).getLsbD 7 } })

/-- R205: `BIT` in both forms completes and writes Z from `A & M` and N and V from bits 7 and 6 of the operand, and nothing
else. -/
def Obligations.BitTestsTheOperand : Prop :=
  ReadCompletes .bit (fun m r =>
    { r with p := { r.p with z := r.a &&& m == 0#8, n := m.getLsbD 7, v := m.getLsbD 6 } })

/-- R154 to R156: `STA`, `STX` and `STY` in every form complete and write their register to the effective address; no register
and no flag changes. -/
def Obligations.StoresWriteTheirAddress : Prop :=
  StoreCompletes .sta (fun r => r.a) ∧ StoreCompletes .stx (fun r => r.x) ∧ StoreCompletes .sty (fun r => r.y)

/-- R206, R207: `INC` and `DEC` in every form complete: a read, the write of the old byte, the write of the byte plus or minus 1
mod 256, N and Z from the result, and no other flag or register. -/
def Obligations.IncDecModifyMemory : Prop :=
  ModifyCompletes .inc (fun m _ => m + 1) (fun m p => { p with n := (m + 1).getLsbD 7, z := m + 1 == 0#8 }) ∧
  ModifyCompletes .dec (fun m _ => m - 1) (fun m p => { p with n := (m - 1).getLsbD 7, z := m - 1 == 0#8 })

/-- R230 to R234: `ASL`, `LSR`, `ROL` and `ROR` of memory in every form complete: a read, the write of the old byte, the write of
the shifted byte, C from the bit shifted out, N and Z from the result, and no other flag or register. -/
def Obligations.ShiftsModifyMemory : Prop :=
  ModifyCompletes .asl (fun m _ => m <<< 1)
    (fun m p => { p with c := m.getLsbD 7, n := (m <<< 1).getLsbD 7, z := m <<< 1 == 0#8 }) ∧
  ModifyCompletes .lsr (fun m _ => m >>> 1)
    (fun m p => { p with c := m.getLsbD 0, n := false, z := m >>> 1 == 0#8 }) ∧
  ModifyCompletes .rol (fun m p => m.extractLsb' 0 7 ++ BitVec.ofBool p.c)
    (fun m p =>
      { p with
        c := m.getLsbD 7
        n := m.getLsbD 6
        z := (m.extractLsb' 0 7 ++ BitVec.ofBool p.c : Byte) == 0#8 }) ∧
  ModifyCompletes .ror (fun m p => BitVec.ofBool p.c ++ m.extractLsb' 1 7)
    (fun m p =>
      { p with
        c := m.getLsbD 0
        n := p.c
        z := (BitVec.ofBool p.c ++ m.extractLsb' 1 7 : Byte) == 0#8 })

/-! ## Instructions on registers -/

/-- R157 to R162: the six transfers complete, copy one register and set N and Z from it, but for `TXS`, which sets no flag. -/
def Obligations.TransfersCopyARegister : Prop :=
  ImpliedCompletes 0xAA#8 .tax (fun r => { r with x := r.a, p := { r.p with n := r.a.getLsbD 7, z := r.a == 0#8 } }) ∧
  ImpliedCompletes 0xA8#8 .tay (fun r => { r with y := r.a, p := { r.p with n := r.a.getLsbD 7, z := r.a == 0#8 } }) ∧
  ImpliedCompletes 0x8A#8 .txa (fun r => { r with a := r.x, p := { r.p with n := r.x.getLsbD 7, z := r.x == 0#8 } }) ∧
  ImpliedCompletes 0x98#8 .tya (fun r => { r with a := r.y, p := { r.p with n := r.y.getLsbD 7, z := r.y == 0#8 } }) ∧
  ImpliedCompletes 0xBA#8 .tsx (fun r => { r with x := r.s, p := { r.p with n := r.s.getLsbD 7, z := r.s == 0#8 } }) ∧
  ImpliedCompletes 0x9A#8 .txs (fun r => { r with s := r.x })

/-- R208 to R211: `INX`, `INY`, `DEX` and `DEY` complete, add or subtract 1 mod 256 and set N and Z from the result; C and V are
kept. -/
def Obligations.IndexRegistersStepByOne : Prop :=
  ImpliedCompletes 0xE8#8 .inx (fun r =>
    { r with x := r.x + 1, p := { r.p with n := (r.x + 1).getLsbD 7, z := r.x + 1 == 0#8 } }) ∧
  ImpliedCompletes 0xC8#8 .iny (fun r =>
    { r with y := r.y + 1, p := { r.p with n := (r.y + 1).getLsbD 7, z := r.y + 1 == 0#8 } }) ∧
  ImpliedCompletes 0xCA#8 .dex (fun r =>
    { r with x := r.x - 1, p := { r.p with n := (r.x - 1).getLsbD 7, z := r.x - 1 == 0#8 } }) ∧
  ImpliedCompletes 0x88#8 .dey (fun r =>
    { r with y := r.y - 1, p := { r.p with n := (r.y - 1).getLsbD 7, z := r.y - 1 == 0#8 } })

/-- R125, R231 to R234: the accumulator forms of the shifts and rotates complete, write A, C, N and Z, and access no memory but
for the dummy read of the next byte. -/
def Obligations.AccumulatorShifts : Prop :=
  ImpliedCompletes 0x0A#8 .aslAcc (fun r =>
    { r with
      a := r.a <<< 1
      p := { r.p with c := r.a.getLsbD 7, n := (r.a <<< 1).getLsbD 7, z := r.a <<< 1 == 0#8 } }) ∧
  ImpliedCompletes 0x4A#8 .lsrAcc (fun r =>
    { r with a := r.a >>> 1, p := { r.p with c := r.a.getLsbD 0, n := false, z := r.a >>> 1 == 0#8 } }) ∧
  ImpliedCompletes 0x2A#8 .rolAcc (fun r =>
    { r with
      a := r.a.extractLsb' 0 7 ++ BitVec.ofBool r.p.c
      p := { r.p with
        c := r.a.getLsbD 7
        n := r.a.getLsbD 6
        z := (r.a.extractLsb' 0 7 ++ BitVec.ofBool r.p.c : Byte) == 0#8 } }) ∧
  ImpliedCompletes 0x6A#8 .rorAcc (fun r =>
    { r with
      a := BitVec.ofBool r.p.c ++ r.a.extractLsb' 1 7
      p := { r.p with
        c := r.a.getLsbD 0
        n := r.p.c
        z := (BitVec.ofBool r.p.c ++ r.a.extractLsb' 1 7 : Byte) == 0#8 } })

/-- R260 to R267: each flag instruction completes and writes only the flag it names; `NOP` completes and writes nothing. -/
def Obligations.FlagInstructionsWriteOneFlag : Prop :=
  ImpliedCompletes 0x18#8 .clc (fun r => { r with p := { r.p with c := false } }) ∧
  ImpliedCompletes 0x38#8 .sec (fun r => { r with p := { r.p with c := true } }) ∧
  ImpliedCompletes 0x58#8 .cli (fun r => { r with p := { r.p with i := false } }) ∧
  ImpliedCompletes 0x78#8 .sei (fun r => { r with p := { r.p with i := true } }) ∧
  ImpliedCompletes 0xD8#8 .cld (fun r => { r with p := { r.p with d := false } }) ∧
  ImpliedCompletes 0xF8#8 .sed (fun r => { r with p := { r.p with d := true } }) ∧
  ImpliedCompletes 0xB8#8 .clv (fun r => { r with p := { r.p with v := false } }) ∧
  ImpliedCompletes 0xEA#8 .nop (fun r => r)

/-! ## Stack and control transfer -/

/-- R180, R183, R184: `PHA` and `PHP` complete, write A or the flags with B = 1 to `$0100 + S`, and decrement S, wrapping in
page 1; no flag and no other register or byte changes. -/
def Obligations.PushesStoreOneByte : Prop :=
  ∀ s : State, Memory.wf s.mem = true → Ready s → Accessible s.cfg s.regs.pc →
    (∃ t, exec .pha s = .next t ∧ t.regs = { s.regs with s := s.regs.s - 1 } ∧ t.latch = s.regs.a ∧
      cell t.mem (stackAddr s.regs.s) = s.regs.a ∧
      (∀ b, b ≠ stackAddr s.regs.s → cell t.mem b = cell s.mem b) ∧ ChipsKept s t ∧ Kept 2 s t) ∧
    (∃ t, exec .php s = .next t ∧ t.regs = { s.regs with s := s.regs.s - 1 } ∧ t.latch = packP s.regs.p true ∧
      cell t.mem (stackAddr s.regs.s) = packP s.regs.p true ∧
      (∀ b, b ≠ stackAddr s.regs.s → cell t.mem b = cell s.mem b) ∧ ChipsKept s t ∧ Kept 2 s t)

/-- R181, R185, R186: `PLA` and `PLP` complete, increment S, wrapping in page 1, and take A (with N and Z) or the six flags from
`$0100 + S`; memory is unchanged. -/
def Obligations.PullsLoadOneByte : Prop :=
  ∀ s : State, Ready s → Accessible s.cfg s.regs.pc →
    let m := cell s.mem (stackAddr (s.regs.s + 1))
    (∃ t, exec .pla s = .next t ∧
      t.regs =
        { s.regs with s := s.regs.s + 1, a := m, p := { s.regs.p with n := m.getLsbD 7, z := m == 0#8 } } ∧
      t.latch = m ∧ (∀ b, cell t.mem b = cell s.mem b) ∧ ChipsKept s t ∧ Kept 3 s t) ∧
    (∃ t, exec .plp s = .next t ∧
      t.regs =
        { s.regs with
          s := s.regs.s + 1
          p := ⟨m.getLsbD 7, m.getLsbD 6, m.getLsbD 3, m.getLsbD 2, m.getLsbD 1, m.getLsbD 0⟩ } ∧
      t.latch = m ∧ (∀ b, cell t.mem b = cell s.mem b) ∧ ChipsKept s t ∧ Kept 3 s t)

/-- R240 to R248: the eight branches complete, taken exactly on their flag's value; a taken branch leaves PC at the address after
it plus the sign-extended offset mod 2^16. No flag, no other register and no memory changes. -/
def Obligations.BranchesAreTakenOnTheirFlag : Prop :=
  BranchCompletes .bcc 0x90#8 (fun p => !p.c) ∧ BranchCompletes .bcs 0xB0#8 (fun p => p.c) ∧
  BranchCompletes .bne 0xD0#8 (fun p => !p.z) ∧ BranchCompletes .beq 0xF0#8 (fun p => p.z) ∧
  BranchCompletes .bpl 0x10#8 (fun p => !p.n) ∧ BranchCompletes .bmi 0x30#8 (fun p => p.n) ∧
  BranchCompletes .bvc 0x50#8 (fun p => !p.v) ∧ BranchCompletes .bvs 0x70#8 (fun p => p.v)

/-- R249, R250, R136: `JMP` completes: the absolute form loads PC with its operand, and the indirect form with the word at its
operand, the high byte read from the same page as the low byte, one clock each. Nothing else changes. -/
def Obligations.JumpsLoadThePc : Prop :=
  (∀ a s, exec (.jmpAbs a) s = .next (s.withRegs { s.regs with pc := a })) ∧
  ∀ (a : Word) (s : State), Ready s → Accessible s.cfg a →
    Accessible s.cfg (wordOf (hiByte a) (loByte a + 1)) →
    ∃ t lo hi, exec (.jmpInd a) s = .next t ∧ ReadsByte s a lo ∧
      ReadsByte s (wordOf (hiByte a) (loByte a + 1)) hi ∧ (∃ u, ReadAfter [] a s lo u) ∧
      (∃ w, ReadAfter [a] (wordOf (hiByte a) (loByte a + 1)) s hi w ∧
        t = w.withRegs { s.regs with pc := wordOf hi lo }) ∧
      t.regs = { s.regs with pc := wordOf hi lo } ∧
      t.latch = hi ∧ (∀ b, cell t.mem b = cell s.mem b) ∧ ChipsKept s t ∧ Kept 2 s t

/-- R251, R528: `JSR` completes: it pushes the address of its last byte, high byte first, then fetches that byte, from memory as
the pushes left it, as the high byte of PC. No flag changes, and no byte but the two pushed. -/
def Obligations.JsrPushesTheReturnAddress : Prop :=
  ∀ (a : Word) (s : State), Memory.wf s.mem = true → Ready s → Accessible s.cfg s.regs.pc →
    ∃ t hi, exec (.jsr a) s = .next t ∧
      t.regs = { s.regs with s := s.regs.s - 2, pc := wordOf hi (loByte a) } ∧
      (∃ u o w, clock (.fetch s.regs.pc) .keep u = .next (o, w) ∧ o.byte = hi ∧ t = w.withRegs t.regs ∧
        u.mem = t.mem ∧ u.latch = loByte s.regs.pc ∧ ChipsKept s u ∧ Kept 3 s u) ∧
      (isMemory s.cfg s.regs.pc = true → hi = cell t.mem s.regs.pc) ∧
      cell t.mem (stackAddr s.regs.s) = hiByte s.regs.pc ∧
      cell t.mem (stackAddr (s.regs.s - 1)) = loByte s.regs.pc ∧
      (∀ b, b ≠ stackAddr s.regs.s → b ≠ stackAddr (s.regs.s - 1) → cell t.mem b = cell s.mem b) ∧
      ChipsKept s t ∧ Kept 4 s t

/-- R252: `RTS` completes: it pulls the low and the high byte of an address and leaves PC one past it mod 2^16. No flag and no
memory changes. -/
def Obligations.RtsReturnsPastThePulledAddress : Prop :=
  ∀ s : State, Ready s → Accessible s.cfg s.regs.pc →
    let w := wordOf (cell s.mem (stackAddr (s.regs.s + 2))) (cell s.mem (stackAddr (s.regs.s + 1)))
    Accessible s.cfg w →
    ∃ t, exec .rts s = .next t ∧ t.regs = { s.regs with s := s.regs.s + 2, pc := w + 1 } ∧
      (∀ b, cell t.mem b = cell s.mem b) ∧ ChipsKept s t ∧ Kept 5 s t

/-! ## Interrupts -/

/-- R270, R530: `BRK` completes: the entry with B = 1 and the address two past the opcode, through `$FFFE`, or, with `brk_hijack`
and an NMI pending in its fifth cycle, through `$FFFA`, the pending NMI then cleared. -/
def Obligations.BrkEntersThroughItsVector : Prop :=
  ∀ s : State, Memory.wf s.mem = true → Ready s → Accessible s.cfg s.regs.pc →
    let hijack := s.cfg.brkHijack && (inputsAfter 4 s).nmiPending
    ∃ t, exec .brk s = .next t ∧
      Entered 6 (s.regs.pc + 1) true (if hijack then 0xFFFA#16 else 0xFFFE#16) s t ∧
      t.nmiPending = if hijack then pendingAfterClear 4 6 s else (inputsAfter 6 s).nmiPending

/-- R271, R312: `RTI` completes: it pulls the six flags, then PC, low byte first, and adds nothing to it; memory is
unchanged. -/
def Obligations.RtiRestoresFlagsAndPc : Prop :=
  ∀ s : State, Ready s → Accessible s.cfg s.regs.pc →
    let m := cell s.mem (stackAddr (s.regs.s + 1))
    ∃ t, exec .rti s = .next t ∧
      t.regs =
        { s.regs with
          s := s.regs.s + 3
          pc := wordOf (cell s.mem (stackAddr (s.regs.s + 3))) (cell s.mem (stackAddr (s.regs.s + 2)))
          p := ⟨m.getLsbD 7, m.getLsbD 6, m.getLsbD 3, m.getLsbD 2, m.getLsbD 1, m.getLsbD 0⟩ } ∧
      (∀ b, cell t.mem b = cell s.mem b) ∧ ChipsKept s t ∧ Kept 5 s t

/-- R305, R310, R530: at a boundary with no NMI, `irq_line` asserted and `I = 0`, the step is the IRQ sequence: the entry with
B = 0 and the address of the instruction not executed, through `$FFFE`, or through `$FFFA` when `brk_hijack` lets a pending
NMI take it over; it ends at a boundary. -/
def Obligations.IrqIsTakenAtABoundary : Prop :=
  ∀ s : State, s.run ≠ .uninitialized → s.seq = none → nmiSeen s = false → irqLine s = true → s.regs.p.i = false →
    Memory.wf s.mem = true → Ready s → Accessible s.cfg s.regs.pc →
    let hijack := s.cfg.brkHijack && (inputsAfter 5 s).nmiPending
    ∃ t, step s = .next t ∧ Entered 7 s.regs.pc false (if hijack then 0xFFFA#16 else 0xFFFE#16) s t ∧
      t.nmiPending = if hijack then pendingAfterClear 5 7 s else (inputsAfter 7 s).nmiPending

/-- R306, R308, R310: at a boundary with an NMI pending or arriving, the step is the NMI sequence, whatever `I` and `irq_line`
hold: the entry with B = 0 through `$FFFA`, and the pending latch cleared in its first cycle. -/
def Obligations.NmiIsTakenBeforeEverything : Prop :=
  ∀ s : State, s.run ≠ .uninitialized → s.seq = none → nmiSeen s = true →
    Memory.wf s.mem = true → Ready s → Accessible s.cfg s.regs.pc →
    ∃ t, step s = .next t ∧ Entered 7 s.regs.pc false 0xFFFA#16 s t ∧ t.nmiPending = pendingAfterClear 1 7 s

/-- R304: each clock samples the NMI line: an inactive-to-active transition sets the pending latch, which only the entry of an NMI
sequence and a `brk_hijack` then clear, and a line held asserted sets it no second time. -/
def Obligations.NmiIsEdgeSensitive : Prop :=
  (∀ b act s o t, clock b act s = .next (o, t) →
    let pending := s.nmiPending || ((nextInputs s).nmi && !s.nmiPrev)
    t.nmiPrev = (nextInputs s).nmi ∧
      (act = .keep → t.nmiPending = pending) ∧ (act = .enter → t.nmiPending = false) ∧
      (act = .hijack → t.nmiPending = (pending && !s.cfg.brkHijack))) ∧
  ∀ n s, s.nmiPrev = true → s.inp.nmi = true → (∀ i ∈ s.inputs, i.nmi = true) →
    (inputsAfter n s).nmiPending = s.nmiPending

/-- R23: the pushed flag byte is N V 1 B D I Z C from bit 7 down; a pull takes the six flags from their bits and discards bits 4
and 5, so pulling a pushed byte gives the flags back. -/
def Obligations.FlagByteLayout : Prop :=
  (∀ p b, unpackP (packP p b) = p ∧
    (packP p b).toNat = 128 * p.n.toNat + 64 * p.v.toNat + 32 + 16 * b.toNat + 8 * p.d.toNat + 4 * p.i.toNat +
      2 * p.z.toNat + p.c.toNat) ∧
  ∀ v b, packP (unpackP v) b = (v &&& 0xCF#8) ||| (if b then 0x30#8 else 0x20#8)

/-! ## Arithmetic laws -/

/-- R191, R192: binary addition and subtraction: the result mod 256, C as the carry or the inverted borrow, V as signed overflow
and as the rules' bit formula, N and Z from the result, and subtraction as addition of the complement. -/
def Obligations.BinaryArithmeticLaws : Prop :=
  ∀ (a m : Byte) (c : Bool),
    let s := a.toNat + m.toNat + c.toNat
    let d : Int := (a.toNat : Int) - m.toNat - (1 - (c.toNat : Int))
    let add := addBin a m c
    let sub := subBin a m c
    (add.result.toNat = s % 256 ∧ (add.c = true ↔ 255 < s) ∧
      (add.v = true ↔ ~~~(a ^^^ m) &&& (a ^^^ add.result) &&& 0x80#8 ≠ 0#8) ∧
      (add.v = true ↔ a.toInt + m.toInt + c.toNat < -128 ∨ 127 < a.toInt + m.toInt + c.toNat) ∧
      (add.n = true ↔ 128 ≤ add.result.toNat) ∧ (add.z = true ↔ add.result = 0#8)) ∧
    ((sub.result.toNat : Int) = d % 256 ∧ (sub.c = true ↔ 0 ≤ d) ∧
      (sub.v = true ↔ (a ^^^ m) &&& (a ^^^ sub.result) &&& 0x80#8 ≠ 0#8) ∧
      (sub.v = true ↔ a.toInt - m.toInt - (1 - (c.toNat : Int)) < -128 ∨
        127 < a.toInt - m.toInt - (1 - (c.toNat : Int))) ∧
      (sub.n = true ↔ 128 ≤ sub.result.toNat) ∧ (sub.z = true ↔ sub.result = 0#8)) ∧
    sub = addBin a (~~~m) c

/-- R196: for packed BCD operands, decimal addition and subtraction give the packed BCD of the sum or difference mod 100, and C
says whether it left the range. R193, R194: for all operands, BCD or not, the corrected result, N and V of an addition from the
sum before its high-digit correction, Z from the binary sum, and the flags of a subtraction from the binary subtraction; this
second part rests on the spec's decision D6 (R195). -/
def Obligations.DecimalArithmeticOnBcd : Prop :=
  (∀ (x y : Nat) (c : Bool), x < 100 → y < 100 →
    let bcd := fun n : Nat => BitVec.ofNat 8 (n / 10 * 16 + n % 10)
    let sum := x + y + c.toNat
    let diff : Int := (x : Int) - y - (1 - (c.toNat : Int))
    ((addDec (bcd x) (bcd y) c).result = bcd (sum % 100) ∧
      ((addDec (bcd x) (bcd y) c).c = true ↔ 100 ≤ sum)) ∧
    (subDec (bcd x) (bcd y) c).result = bcd (diff % 100).toNat ∧
      ((subDec (bcd x) (bcd y) c).c = true ↔ 0 ≤ diff)) ∧
  (∀ (a m : Byte) (c : Bool),
    let lo := a.toNat % 16 + m.toNat % 16 + c.toNat
    let t := a.toNat - a.toNat % 16 + (m.toNat - m.toNat % 16) + (if 10 ≤ lo then (lo + 6) % 16 + 16 else lo)
    let q := addDec a m c
    q.result.toNat = (if 160 ≤ t then t + 96 else t) % 256 ∧ (q.c = true ↔ 160 ≤ t) ∧ (q.n = true ↔ 128 ≤ t % 256) ∧
      (q.v = true ↔ (128 ≤ a.toNat ↔ 128 ≤ m.toNat) ∧ ¬(128 ≤ a.toNat ↔ 128 ≤ t % 256)) ∧
      (q.z = true ↔ (a.toNat + m.toNat + c.toNat) % 256 = 0)) ∧
  ∀ (a m : Byte) (c : Bool),
    let lo : Int := (a.toNat % 16 : Int) - m.toNat % 16 + c.toNat - 1
    let t : Int := (a.toNat : Int) - a.toNat % 16 - (m.toNat - m.toNat % 16) + (if lo < 0 then (lo - 6) % 16 - 16 else lo)
    let d : Int := (a.toNat : Int) - m.toNat - (1 - (c.toNat : Int))
    let q := subDec a m c
    (q.result.toNat : Int) = (if t < 0 then t - 96 else t) % 256 ∧ (q.c = true ↔ 0 ≤ d) ∧
      (q.n = true ↔ 128 ≤ d % 256) ∧ (q.z = true ↔ d % 256 = 0) ∧
      (q.v = true ↔ ¬(128 ≤ a.toNat ↔ 128 ≤ m.toNat) ∧ ¬(128 ≤ a.toNat ↔ 128 ≤ d % 256))

/-! ## Encoding and fetch -/

/-- R120, R121, R140: decoding the bytes of an instruction gives it back, whatever follows them, and bytes that decode to an
instruction are its encoding followed by the rest: no operand bit is dropped and no opcode has two meanings. -/
def Obligations.DecodeInvertsEncode : Prop :=
  (∀ i rest, decode (encode i ++ rest) = .ok (i, rest)) ∧
  ∀ bytes i rest, decode bytes = .ok (i, rest) → bytes = encode i ++ rest

/-- R139: for each family, words written out from the opcode map decode to the instruction they stand for, a two-byte operand
low byte first. -/
def Obligations.WordsOfTheMapDecode : Prop :=
  decode [0xA9#8, 0x80#8] = .ok (.ldaImm 0x80#8, []) ∧
  decode [0x8D#8, 0x00#8, 0x1E#8] = .ok (.staAbs 0x1E00#16, []) ∧
  decode [0xBA#8] = .ok (.tsx, []) ∧
  decode [0x68#8] = .ok (.pla, []) ∧
  decode [0x71#8, 0xFE#8] = .ok (.adcIzy 0xFE#8, []) ∧
  decode [0x3D#8, 0x34#8, 0x12#8] = .ok (.andAbx 0x1234#16, []) ∧
  decode [0xC1#8, 0x40#8] = .ok (.cmpIzx 0x40#8, []) ∧
  decode [0xF6#8, 0x20#8] = .ok (.incZpx 0x20#8, []) ∧
  decode [0x6A#8] = .ok (.rorAcc, []) ∧
  decode [0x30#8, 0x7F#8] = .ok (.bmi 0x7F#8, []) ∧
  decode [0x6C#8, 0xFF#8, 0x10#8] = .ok (.jmpInd 0x10FF#16, []) ∧
  decode [0x00#8] = .ok (.brk, [])

/-- R137: the 105 values of the rule's list are the undocumented opcodes, and a step that fetches one at a boundary, from memory or
from wherever `PC` points, is refused with its name. -/
def Obligations.UndocumentedOpcodesAreRefused : Prop :=
  (List.range 256).filter (fun n => (findRow (BitVec.ofNat 8 n)).isNone) =
    [0x02, 0x03, 0x04, 0x07, 0x0B, 0x0C, 0x0F, 0x12, 0x13, 0x14, 0x17, 0x1A, 0x1B, 0x1C, 0x1F, 0x22, 0x23, 0x27, 0x2B,
      0x2F, 0x32, 0x33, 0x34, 0x37, 0x3A, 0x3B, 0x3C, 0x3F, 0x42, 0x43, 0x44, 0x47, 0x4B, 0x4F, 0x52, 0x53, 0x54,
      0x57, 0x5A, 0x5B, 0x5C, 0x5F, 0x62, 0x63, 0x64, 0x67, 0x6B, 0x6F, 0x72, 0x73, 0x74, 0x77, 0x7A, 0x7B, 0x7C,
      0x7F, 0x80, 0x82, 0x83, 0x87, 0x89, 0x8B, 0x8F, 0x92, 0x93, 0x97, 0x9B, 0x9C, 0x9E, 0x9F, 0xA3, 0xA7, 0xAB,
      0xAF, 0xB2, 0xB3, 0xB7, 0xBB, 0xBF, 0xC2, 0xC3, 0xC7, 0xCB, 0xCF, 0xD2, 0xD3, 0xD4, 0xD7, 0xDA, 0xDB, 0xDC,
      0xDF, 0xE2, 0xE3, 0xE7, 0xEB, 0xEF, 0xF2, 0xF3, 0xF4, 0xF7, 0xFA, 0xFB, 0xFC, 0xFF] ∧
  (∀ s : State, AtInstruction s → Ready s → isMemory s.cfg s.regs.pc = true →
    findRow (cell s.mem s.regs.pc) = none → step s = .refused (.undocumentedOpcode (cell s.mem s.regs.pc))) ∧
  ∀ s o u, AtInstruction s → clock (.fetch s.regs.pc) .keep s = .next (o, u) → findRow o.byte = none →
    step s = .refused (.undocumentedOpcode o.byte)

/-- R14, R84, R121: at a boundary that begins an instruction whose bytes stand in memory at `PC`, the step is `exec` of that
instruction on the state after its fetch clocks, with `PC` past the bytes fetched, the latch as `latch_on_fetch` says, and
memory and the chips' programmed registers as before. -/
def Obligations.StepRunsTheDecodedInstruction : Prop :=
  ∀ (s : State) (i : Instr), AtInstruction s → Ready s → InstrAtPc i s →
    ∃ u, step s = exec i u ∧ u.regs = { s.regs with pc := s.regs.pc + BitVec.ofNat 16 (fetchClocks i) } ∧
      u.mem = s.mem ∧
      u.latch =
        (if s.cfg.latchOnFetch then cell s.mem (s.regs.pc + BitVec.ofNat 16 (fetchClocks i - 1)) else s.latch) ∧
      Ready u ∧ ChipsKept s u ∧ Kept (fetchClocks i) s u

/-! ## The whole machine -/

/-- Every step keeps the invariant: memory in canonical form, four-bit colour cells (R92), no refused timer-chip mode (R367), the
raster inside the frame (R402, R421), the fetch counters where R422 puts them, a nonzero noise register (R443), no sequence in
progress that has nothing left to run (R30). -/
def Obligations.EveryStepKeepsTheInvariant : Prop :=
  ∀ s t : State, Invariant s → step s = .next t → Invariant t

/-- The state after reset meets the invariant. This rests on the configuration and the values the model names for reset (log
entries 1 to 7). -/
def Obligations.ResetMeetsTheInvariant : Prop := Invariant State.reset

/-- R31, R88, R90: no step changes the configuration, and none changes a cell that is neither RAM nor colour RAM. -/
def Obligations.OnlyRamAndColourCellsChange : Prop :=
  ∀ s t : State, Memory.wf s.mem = true → step s = .next t →
    t.cfg = s.cfg ∧ ∀ a, region s.cfg a ≠ .ram → region s.cfg a ≠ .colour → cell t.mem a = cell s.mem a

/-- A step ends at an instruction boundary and keeps the run state. That a step of the model runs from boundary to boundary is the
model's choice (log entry 13). -/
def Obligations.StepEndsAtABoundary : Prop :=
  ∀ s t : State, step s = .next t →
    t.seq = none ∧ cycleIndex t = 0 ∧ t.run = s.run ∧ (s.seq = none → s.clock + 2 ≤ t.clock ∧ t.clock ≤ s.clock + 7)

/-- R473, R521, R532: a step is `step_cycle()` repeated: some number of cycles from 1 to 7 gives the same state, and after every
smaller number the machine is inside the sequence. -/
def Obligations.StepIsRepeatedCycles : Prop :=
  ∀ s t : State, step s = .next t →
    ∃ n, 1 ≤ n ∧ n ≤ 7 ∧ runCycles n s = .next t ∧
      ∀ k, 0 < k → k < n → ∃ u, runCycles k s = .next u ∧ u.seq ≠ none

/-- R470, R101, R87: in every clock the video/audio chip steps first, on the state before the processor's access; then the access
takes effect; then both timer chips step, seeing it. A write, in a cycle with any act on the NMI latch: the byte goes to memory
or to the chip that owns the address. A read, or a fetch that is a `MemRead` (R80, R84): a chip gives the byte its read gives and
keeps that read's side effect, a memory cell its byte, a colour cell its nibble under the latch's high nibble, an absent address
the latch. A fetch that is no `MemRead` leaves the latch, and a cycle without an access changes nothing of this. -/
def Obligations.ClockOrder : Prop :=
  (∀ (s t : State) (a : Word) (v : Byte) (act : NmiAct) (o : Obs), clock (.write a v) act s = .next (o, t) →
    ∃ c out, vicCycle s.cfg s.mem s.clock s.vic = .next (c, out) ∧ t.sink = out :: s.sink ∧
      t.vic = (if region s.cfg a = .vic then { c with reg := vicRegWrite (registerIndex a) v c.reg } else c) ∧
      t.mem = storeByte s.cfg s.mem a v ∧ t.latch = v ∧
      (∃ A, (if region s.cfg a = .viaA then viaWrite (registerIndex a) v s.viaA else .next s.viaA) = .next A ∧
        t.viaA = viaCycle (nextInputs s).a A) ∧
      ∃ B, (if region s.cfg a = .viaB then viaWrite (registerIndex a) v s.viaB else .next s.viaB) = .next B ∧
        t.viaB = viaCycle (nextInputs s).b B) ∧
  (∀ (s t : State) (a : Word) (b : BusOp) (act : NmiAct) (o : Obs), clock b act s = .next (o, t) →
    b = .read a ∨ b = .fetch a ∧ (isMemory s.cfg a = false ∨ s.cfg.latchOnFetch = true) →
    ∃ c out, vicCycle s.cfg s.mem s.clock s.vic = .next (c, out) ∧ t.sink = out :: s.sink ∧ t.vic = c ∧
      t.mem = s.mem ∧ t.latch = o.byte ∧
      (isMemory s.cfg a = true → o.byte = cell s.mem a) ∧
      (region s.cfg a = .colour → o.byte = s.latch.extractLsb' 4 4 ++ (cell s.mem a).extractLsb' 0 4) ∧
      (region s.cfg a = .absent → o.byte = s.latch) ∧
      (region s.cfg a = .vic → o.byte = vicRead (registerIndex a) s.clock c) ∧
      (region s.cfg a = .viaA → o.byte = (viaRead (registerIndex a) (nextInputs s).a s.viaA).1) ∧
      (region s.cfg a = .viaB → o.byte = (viaRead (registerIndex a) (nextInputs s).b s.viaB).1) ∧
      t.viaA = viaCycle (nextInputs s).a
        (if region s.cfg a = .viaA then (viaRead (registerIndex a) (nextInputs s).a s.viaA).2 else s.viaA) ∧
      t.viaB = viaCycle (nextInputs s).b
        (if region s.cfg a = .viaB then (viaRead (registerIndex a) (nextInputs s).b s.viaB).2 else s.viaB)) ∧
  ∀ (s t : State) (a : Word) (b : BusOp) (act : NmiAct) (o : Obs), clock b act s = .next (o, t) →
    b = .none ∨ b = .fetch a ∧ isMemory s.cfg a = true ∧ s.cfg.latchOnFetch = false →
    ∃ c out, vicCycle s.cfg s.mem s.clock s.vic = .next (c, out) ∧ t.sink = out :: s.sink ∧ t.vic = c ∧
      t.mem = s.mem ∧ t.latch = s.latch ∧ (b = .fetch a → o.byte = cell s.mem a) ∧
      t.viaA = viaCycle (nextInputs s).a s.viaA ∧ t.viaB = viaCycle (nextInputs s).b s.viaB

/-- R500, R478: `reset()` leaves RESETSEQ at `t = 1` with no NMI pending; its first five cycles change neither the latch, nor
memory, nor a chip's programmed registers; and the step from there loads PC from `$FFFC` and sets I, in seven clocks, memory
and the other registers as they were. -/
def Obligations.ResetSequence : Prop :=
  ∀ (d : ResetDraw) (s u : State), hostReset d s = .next u →
    u.nmiPending = false ∧ cycleIndex u = 1 ∧
    (∃ w, runCycles 5 u = .next w ∧ w.latch = u.latch ∧ (∀ b, cell w.mem b = cell u.mem b) ∧ ChipsKept u w) ∧
    ∃ t, step u = .next t ∧ t.seq = none ∧
      t.regs = { u.regs with pc := vectorWord u 0xFFFC#16, p := { u.regs.p with i := true } } ∧
      (∀ b, cell t.mem b = cell u.mem b) ∧ ChipsKept u t ∧ t.clock = u.clock + 7

/-- R478, R370, R450: `reset()` keeps memory, the latch, the configuration and the run state, gives both timer chips and the
video/audio chip the values of R370 and R450, and remembers the timer chips' input levels. That these are the levels of the clock
last run is the model's choice (log entry 31). -/
def Obligations.ResetValues : Prop :=
  ∀ (d : ResetDraw) (s u : State), hostReset d s = .next u →
    u.mem = s.mem ∧ u.latch = s.latch ∧ u.cfg = s.cfg ∧ u.run = s.run ∧
    (∀ c, c = u.viaA ∨ c = u.viaB →
      c.ora = 0#8 ∧ c.orb = 0#8 ∧ c.ddra = 0#8 ∧ c.ddrb = 0#8 ∧ c.acr = 0#8 ∧ c.pcr = 0#8 ∧ c.ifr = 0#7 ∧
        c.ier = 0#7 ∧ irqOut c = false ∧ c.ca2Out = false ∧ c.cb2Out = false ∧ c.t1Loaded = false ∧
        c.t2Loaded = false) ∧
    (u.viaA.ca1Prev = s.inp.a.ca1 ∧ u.viaA.ca2Prev = s.inp.a.ca2 ∧ u.viaA.cb1Prev = s.inp.a.cb1 ∧
      u.viaA.cb2Prev = s.inp.a.cb2) ∧
    (u.viaB.ca1Prev = s.inp.b.ca1 ∧ u.viaB.ca2Prev = s.inp.b.ca2 ∧ u.viaB.cb1Prev = s.inp.b.cb1 ∧
      u.viaB.cb2Prev = s.inp.b.cb2) ∧
    u.vic.reg = s.cfg.vicResetValues ∧ u.vic.h = 0 ∧ u.vic.v = 0 ∧ u.vic.vPend = false ∧
    u.vic.fs = .outsideMatrix ∧ u.vic.vmc = 0#12 ∧ u.vic.vmcLatch = 0#12 ∧ u.vic.colsLeft = 0#7 ∧
    u.vic.rowsLeft = 0#6 ∧ u.vic.depth = 0#4 ∧ u.vic.code = 0#8 ∧ u.vic.colour = 0#4 ∧ u.vic.pipe = 0#8 ∧
    u.vic.pipeColour = 0#4 ∧ u.vic.pixLeft = 0 ∧ u.vic.lfsr = s.cfg.lfsrReset ∧
    (∀ w, w = u.vic.voice0 ∨ w = u.vic.voice1 ∨ w = u.vic.voice2 ∨ w = u.vic.voice3 → w = ⟨0#7, 0#8⟩) ∧
    u.vic.apre = 0 ∧ u.vic.sacc = 0

/-- R477: `init` fails for an unrecognised expansion size and for a missing or wrong-size ROM buffer, and otherwise succeeds but
for a snapshot that R479 refuses: with the requested or sniffed size, and a failed sniff, which is reported, with none and a cold
start. R474: before `init` every step is refused; that `pause`, `resume` and `reset` are refused there too is the model's choice
(log entry 30), and so is which failure is named when a request has several, and which refused state of a snapshot is looked at
first (log entry 33), and that a snapshot's interlace bit or a value out of range refuses nothing (log entries 29 and 25), and
that `auto` without a load address takes a drawn size (log entry 34). -/
def Obligations.InitFailuresAndRefusals : Prop :=
  (∀ s : State, s.run = .uninitialized →
    step s = .refused .notInitialised ∧ stepCycle s = .refused .notInitialised ∧
      stepFrame s = .refused .notInitialised ∧ sourceStep s = .refused .notInitialised ∧
      hostPause s = .refused .notInitialised ∧ hostResume s = .refused .notInitialised ∧
      ∀ d, hostReset d s = .refused .notInitialised) ∧
  (∀ q, q.size = .unrecognised → initMachine q = .fault .unrecognisedExpansion) ∧
  (∀ q, q.size ≠ .unrecognised →
    (∀ l, q.charRom = some l → l.length ≠ 0x1000) ∨ (∀ l, q.basicRom = some l → l.length ≠ 0x2000) ∨
      (∀ l, q.kernelRom = some l → l.length ≠ 0x2000) → initMachine q = .fault .missingRom) ∧
  ∀ q chars basic kernel, q.size ≠ .unrecognised → q.charRom = some chars → chars.length = 0x1000 →
    q.basicRom = some basic → basic.length = 0x2000 → q.kernelRom = some kernel → kernel.length = 0x2000 →
    (q.sniff = .failed →
      sniffFailed q = true ∧
        ∃ s, initMachine q = .next s ∧ s.cfg.expansion = .none ∧ s.run = .ready ∧
          s.seq.map InFlight.kind = some .reset ∧ cycleIndex s = 1) ∧
    (q.sniff ≠ .failed →
      sniffFailed q = false ∧
      (∀ p e, q.snapshot = some p → snapshotRefusal p = some e → initMachine q = .refused e) ∧
      ((∀ p, q.snapshot = some p → snapshotRefusal p = none) →
        ∃ s, initMachine q = .next s ∧ s.run = .ready ∧ (∀ e, q.size = .fixed e → s.cfg.expansion = e) ∧
          (∀ a, q.size = .auto → q.sniff = .address a → s.cfg.expansion = Config.autoExpansionRule a) ∧
          (∀ e, q.size = .auto → q.sniff = .noAddress e → s.cfg.expansion = e) ∧
          (q.snapshot = none → s.seq.map InFlight.kind = some .reset ∧ cycleIndex s = 1) ∧
          (q.snapshot ≠ none → s.seq = none ∧ cycleIndex s = 0)))

/-- R90, R95, R475: after a cold start the character, BASIC and kernel ROM cells hold the buffers given to `init`, and memory is in
canonical form; in a cartridge machine the cells of `$A000-$BFFF` that the image covers are ROM and hold it, and the cells no
image covers are no ROM, in any machine. That an image may cover a part of the window is the model's choice (log entry 28), and so
is that in a 32K or 35K machine, where R90 gives the range to RAM too, the covered cells are ROM (log entry 22), and that
a failed sniff leaves the image in place (log entry 35). -/
def Obligations.InitPlacesTheRoms : Prop :=
  ∀ q s chars basic kernel, q.snapshot = none → q.charRom = some chars → q.basicRom = some basic →
    q.kernelRom = some kernel → initMachine q = .next s →
    Memory.wf s.mem = true ∧
    (∀ k v, chars[k]? = some v → cell s.mem (0x8000#16 + BitVec.ofNat 16 k) = v) ∧
    (∀ k v, basic[k]? = some v → cell s.mem (0xC000#16 + BitVec.ofNat 16 k) = v) ∧
    (∀ k v, kernel[k]? = some v → cell s.mem (0xE000#16 + BitVec.ofNat 16 k) = v) ∧
    ∀ k, k < 0x2000 →
      (∀ v, q.cfg.programType = .cartridge → q.cartridge[k]? = some v →
        region s.cfg (0xA000#16 + BitVec.ofNat 16 k) = .rom ∧ cell s.mem (0xA000#16 + BitVec.ofNat 16 k) = v) ∧
      (q.cfg.programType ≠ .cartridge ∨ q.cartridge[k]? = none →
        region s.cfg (0xA000#16 + BitVec.ofNat 16 k) ≠ .rom)

/-! ## The bus -/

/-- R82, R83, R84: every read leaves the byte read in the latch and every write the byte written; a read of an absent address
gives the latch unchanged, so after a write of `v` it gives `v`; a fetch from memory leaves the latch alone unless
`latch_on_fetch`. -/
def Obligations.LatchAndOpenBus : Prop :=
  (∀ a s v t, busRead a s = .next (v, t) → t.latch = v) ∧
  (∀ a v s t, busWrite a v s = .next t → t.latch = v) ∧
  (∀ a s, region s.cfg a = .absent → busRead a s = .next (s.latch, s)) ∧
  (∀ a b v s t, busWrite a v s = .next t → region s.cfg b = .absent → busRead b t = .next (v, t)) ∧
  ∀ a s, busFetch a s =
    if isMemory s.cfg a = true ∧ s.cfg.latchOnFetch = false then .next (cell s.mem a, s) else busRead a s

/-- R88, R92: a write to ROM or to an absent address changes the latch and nothing else; colour RAM keeps the low nibble of a
write, a processor read gives that nibble under the latch's high nibble, and the video chip reads the nibble. -/
def Obligations.RomAndColourRam : Prop :=
  (∀ a v s, region s.cfg a = .rom ∨ region s.cfg a = .absent → busWrite a v s = .next (s.withLatch v)) ∧
  (∀ a s, region s.cfg a = .colour → ∃ v, busRead a s = .next (v, s.withLatch v) ∧
    v.toNat = s.latch.toNat / 16 * 16 + (cell s.mem a).toNat % 16) ∧
  (∀ m va, (colourRead m va).toNat = (cell m (0x9400#16 + (va &&& 0x3FF#14).setWidth 16)).toNat % 16) ∧
  ∀ a v s, Memory.wf s.mem = true → region s.cfg a = .colour →
    ∃ t, busWrite a v s = .next t ∧ cell t.mem a = v &&& 0x0F#8 ∧
      (∀ b, b ≠ a → cell t.mem b = cell s.mem b) ∧ busRead a t = .next (v, t)

/-- R93: the chip windows and their register indexes, and the refused range: the processor's reads and writes there are refused
by name. -/
def Obligations.ChipWindowsAndMirrors : Prop :=
  (∀ cfg a, (region cfg a = .vic ↔ 0x9000 ≤ a.toNat ∧ a.toNat ≤ 0x900F) ∧
    (region cfg a = .viaA ↔ 0x9110 ≤ a.toNat ∧ a.toNat ≤ 0x911F) ∧
    (region cfg a = .viaB ↔ 0x9120 ≤ a.toNat ∧ a.toNat ≤ 0x912F) ∧
    (region cfg a = .colour ↔ 0x9400 ≤ a.toNat ∧ a.toNat ≤ 0x97FF) ∧
    (region cfg a = .mirror ↔
      (0x9010 ≤ a.toNat ∧ a.toNat ≤ 0x910F) ∨ (0x9130 ≤ a.toNat ∧ a.toNat ≤ 0x93FF)) ∧
    (registerIndex a).toNat = a.toNat % 16) ∧
  ∀ a v s, region s.cfg a = .mirror →
    busRead a s = .refused (.unmodelledIoMirror a) ∧ busFetch a s = .refused (.unmodelledIoMirror a) ∧
      busWrite a v s = .refused (.unmodelledIoMirror a)

/-! ## Timer chips -/

/-- R350, R351, R353, R358: a free-running timer 1 loaded with N by a write of register 5 in clock k counts N, N-1, ..., 0 in
clocks k to k+N with its flag clear, sets it in clock k+N+1, reloads N, and does so again every N+1 clocks, whatever the
inputs. R354: with `ACR[7] = 1` the load drives `PB7` low and each underflow inverts it; with `ACR[7] = 0` it keeps its value. -/
def Obligations.FreeRunningTimerPeriod : Prop :=
  ∀ (v : Byte) (c c' : Via) (ps : List PortInputs), c.acr.getLsbD 6 = true → viaWrite 5#4 v c = .next c' →
    let n := (wordOf v (loByte c.t1l)).toNat
    let d := viaCycles ps c'
    (ps ≠ [] → d.t1c.toNat = n - (ps.length - 1) % (n + 1)) ∧ (d.ifr.getLsbD 6 = true ↔ n + 2 ≤ ps.length) ∧
    (c.acr.getLsbD 7 = true → (d.pb7 = true ↔ (ps.length - 1) / (n + 1) % 2 = 1)) ∧
    (c.acr.getLsbD 7 = false → d.pb7 = c.pb7) ∧
    ∀ p, d.t1Loaded = false → d.t1c = 0#16 →
      (viaCycle p d).t1c = wordOf v (loByte c.t1l) ∧ ∀ f, (viaCycle p { d with ifr := f }).ifr.getLsbD 6 = true

/-- R350, R353, R355, R356, R358: a one-shot timer loaded with N in clock k sets its flag in clock k+N+1 and is disarmed; timer 1
in one-shot mode and timer 2 alike. A disarmed timer never sets its flag again. R354: with `ACR[7] = 1` the load of timer 1 drives
`PB7` low and its timeout drives it high for good; with `ACR[7] = 0` it keeps its value. -/
def Obligations.OneShotTimersFireOnce : Prop :=
  (∀ (v : Byte) (c c' : Via) (ps : List PortInputs), c.acr.getLsbD 6 = false → viaWrite 5#4 v c = .next c' →
    let n := (wordOf v (loByte c.t1l)).toNat
    ((viaCycles ps c').ifr.getLsbD 6 = true ↔ n + 2 ≤ ps.length) ∧
      ((viaCycles ps c').t1Armed = false ↔ n + 2 ≤ ps.length) ∧
      (c.acr.getLsbD 7 = true → ((viaCycles ps c').pb7 = true ↔ n + 2 ≤ ps.length)) ∧
      (c.acr.getLsbD 7 = false → (viaCycles ps c').pb7 = c.pb7)) ∧
  (∀ (v : Byte) (c c' : Via) (ps : List PortInputs), c.acr.getLsbD 5 = false → viaWrite 9#4 v c = .next c' →
    let n := (wordOf v c.t2l).toNat
    ((viaCycles ps c').ifr.getLsbD 5 = true ↔ n + 2 ≤ ps.length) ∧
      ((viaCycles ps c').t2Armed = false ↔ n + 2 ≤ ps.length)) ∧
  ∀ (c : Via) (ps : List PortInputs),
    (c.acr.getLsbD 6 = false → c.t1Armed = false →
      (viaCycles ps c).ifr.getLsbD 6 = c.ifr.getLsbD 6 ∧ (viaCycles ps c).pb7 = c.pb7) ∧
    (c.t2Armed = false → (viaCycles ps c).ifr.getLsbD 5 = c.ifr.getLsbD 5)

/-- R347, R361: a chip's own cycle clears no flag, and a register access clears exactly the flags its rule names and sets none. -/
def Obligations.FlagsStayUntilCleared : Prop :=
  (∀ pins c, c.ifr &&& (viaCycle pins c).ifr = c.ifr) ∧
  (∀ r pins c, (viaRead r pins c).2.ifr = c.ifr &&& ~~~(clearedByRead r c.pcr)) ∧
  ∀ r v c c', viaWrite r v c = .next c' → c'.ifr = c.ifr &&& ~~~(clearedByWrite r v c.pcr)

/-- R302, R303, R360, R362, R363: registers D and E read and write the flags and the enables as their rules say, and `irq_line` is
asserted exactly when a chip has a flag set whose enable is set. -/
def Obligations.InterruptRegisters : Prop :=
  (∀ c, irqOut c = true ↔ ∃ i, i < 7 ∧ c.ifr.getLsbD i = true ∧ c.ier.getLsbD i = true) ∧
  (∀ s, irqLine s = true ↔ irqOut s.viaA = true ∨ irqOut s.viaB = true) ∧
  (∀ pins c, (viaRead 13#4 pins c).1 = BitVec.ofBool (irqOut c) ++ c.ifr ∧ (viaRead 14#4 pins c).1 = 1#1 ++ c.ier) ∧
  (∀ v c, viaWrite 13#4 v c = .next { c with ifr := c.ifr &&& ~~~(v.extractLsb' 0 7) }) ∧
  ∀ v c, viaWrite 14#4 v c = .next
    { c with ier := if v.getLsbD 7 then c.ier ||| v.extractLsb' 0 7 else c.ier &&& ~~~(v.extractLsb' 0 7) }

/-- R367: a write of `ACR` is refused exactly when it selects a shift mode or pulse counting, a write of `PCR` exactly when a
control field selects a handshake or pulse output, and otherwise the value is stored and read back; registers 2 and 3 have no
side effect. -/
def Obligations.RefusedTimerModes : Prop :=
  (∀ v c, ((∃ e, viaWrite 11#4 v c = .refused e) ↔ v &&& 0x3C#8 ≠ 0#8) ∧
    ∀ c', viaWrite 11#4 v c = .next c' → c'.acr = v ∧ ∀ pins, (viaRead 11#4 pins c').1 = v) ∧
  ∀ v c, ((∃ e, viaWrite 12#4 v c = .refused e) ↔
      (v.extractLsb' 1 3 = 4#3 ∨ v.extractLsb' 1 3 = 5#3) ∨ (v.extractLsb' 5 3 = 4#3 ∨ v.extractLsb' 5 3 = 5#3)) ∧
    (∀ c', viaWrite 12#4 v c = .next c' → c'.pcr = v ∧ ∀ pins, (viaRead 12#4 pins c').1 = v) ∧
    viaWrite 2#4 v c = .next { c with ddrb := v } ∧ viaWrite 3#4 v c = .next { c with ddra := v } ∧
    ∀ pins, viaRead 2#4 pins c = (c.ddrb, c) ∧ viaRead 3#4 pins c = (c.ddra, c)

/-- R348, R349, R354, R366: bit by bit, a port reads its output register where the direction is output and the pin, or the latch
when latching is on, where it is input, and bit 7 of port B reads `PB7` when timer 1 drives it; register F reads port A without
a side effect. -/
def Obligations.PortReads : Prop :=
  ∀ (c : Via) (pins : PortInputs) (i : Nat), i < 8 →
    (viaRead 1#4 pins c).1.getLsbD i =
      (if c.ddra.getLsbD i then c.ora.getLsbD i
        else if c.acr.getLsbD 0 then c.ila.getLsbD i else pins.pa.getLsbD i) ∧
    viaRead 15#4 pins c = ((viaRead 1#4 pins c).1, c) ∧
    (viaRead 0#4 pins c).1.getLsbD i =
      (if i = 7 ∧ c.acr.getLsbD 7 = true then c.pb7
        else if c.ddrb.getLsbD i then c.orb.getLsbD i
        else if c.acr.getLsbD 1 then c.ilb.getLsbD i else pins.pb.getLsbD i)

/-- R364: one cycle of a chip sets the CA1 or CB1 flag on the edge `PCR` selects and then latches the port, and remembers the
levels. -/
def Obligations.ControlLineEdges : Prop :=
  ∀ (c : Via) (p : PortInputs),
    let d := viaCycle p c
    let edge := fun (positive prev now : Bool) => if positive then (!prev) && now else prev && !now
    let ca1 := edge (c.pcr.getLsbD 0) c.ca1Prev p.ca1
    let cb1 := edge (c.pcr.getLsbD 4) c.cb1Prev p.cb1
    d.ifr.getLsbD 1 = (c.ifr.getLsbD 1 || ca1) ∧ d.ifr.getLsbD 4 = (c.ifr.getLsbD 4 || cb1) ∧
    d.ila = (if ca1 then p.pa else c.ila) ∧ d.ilb = (if cb1 then p.pb else c.ilb) ∧
    d.ca1Prev = p.ca1 ∧ d.cb1Prev = p.cb1

/-- R365: one cycle of a chip sets the CA2 or CB2 flag on the edge its input mode selects and never in an output mode, and sets no
shift flag. That the levels of CA2 and CB2 are remembered in every mode is the model's reading (log entry 20). -/
def Obligations.SecondControlLineEdges : Prop :=
  ∀ (c : Via) (p : PortInputs),
    let d := viaCycle p c
    let edge := fun (positive prev now : Bool) => if positive then (!prev) && now else prev && !now
    let ca2 := !c.pcr.getLsbD 3 && edge (c.pcr.getLsbD 2) c.ca2Prev p.ca2
    let cb2 := !c.pcr.getLsbD 7 && edge (c.pcr.getLsbD 6) c.cb2Prev p.cb2
    d.ifr.getLsbD 0 = (c.ifr.getLsbD 0 || ca2) ∧ d.ifr.getLsbD 3 = (c.ifr.getLsbD 3 || cb2) ∧
    d.ifr.getLsbD 2 = c.ifr.getLsbD 2 ∧ d.ca2Prev = p.ca2 ∧ d.cb2Prev = p.cb2

/-! ## The video/audio chip -/

/-- R421: one raster advance; so the vertical counter moves one cycle after the horizontal counter wraps, a running raster visits
each of the `H * V` positions exactly once in `H * V` cycles and is then where it was, and after a reset `(0, 0)` comes again,
with `v_pend = 1`, at the first line's end. -/
def Obligations.RasterVisitsEachPositionOnce : Prop :=
  (∀ cfg c, (rasterStep cfg c).h = (if c.h = cfg.timing.lineCycles - 1 then 0 else c.h + 1) ∧
    ((rasterStep cfg c).vPend = true ↔ c.h = cfg.timing.lineCycles - 1) ∧
    (rasterStep cfg c).v = if c.vPend then (c.v + 1) % cfg.lines else c.v) ∧
  (∀ cfg c, 0 < cfg.timing.lineCycles → c.h = 0 → c.v = 0 → c.vPend = false →
    let d := rasterSteps cfg cfg.timing.lineCycles c
    d.h = 0 ∧ d.v = 0 ∧ d.vPend = true) ∧
  ∀ (cfg : Config) (c : Vic), c.h < cfg.timing.lineCycles → c.v < cfg.lines → c.vPend = (c.h == 0) →
    let n := cfg.timing.lineCycles * cfg.lines
    ((rasterSteps cfg n c).h = c.h ∧ (rasterSteps cfg n c).v = c.v ∧ (rasterSteps cfg n c).vPend = c.vPend) ∧
    ∀ h v, h < cfg.timing.lineCycles → v < cfg.lines →
      ∃ k, k < n ∧ (rasterSteps cfg k c).h = h ∧ (rasterSteps cfg k c).v = v ∧
        ∀ j, j < n → (rasterSteps cfg j c).h = h → (rasterSteps cfg j c).v = v → j = k

/-- R436: the cycle that completes a frame is the one whose raster advance takes `v` to `first_visible`, so over any `H * V` clocks
of a running machine exactly one completes a frame; from a reset raster, the first call of `step_cycle()` that returns true is
number `H * first_visible + 1`. -/
def Obligations.OneFrameCompletionPerFrame : Prop :=
  (∀ cfg m clock c o, vicCycle cfg m clock c = .next o →
    (o.2.frame = true ↔ c.vPend = true ∧ o.1.v = cfg.timing.firstVisible)) ∧
  ∀ s t : State, Invariant s →
    let n := s.cfg.timing.lineCycles * s.cfg.lines
    (s.vic.vPend = (s.vic.h == 0) → runCycles n s = .next t →
      ((t.sink.take n).filter (fun o => o.frame)).length = 1) ∧
    ∀ m, s.vic.h = 0 → s.vic.v = 0 → s.vic.vPend = false → 1 ≤ s.cfg.timing.firstVisible →
      m ≤ s.cfg.timing.lineCycles * s.cfg.timing.firstVisible → runCycles (m + 1) s = .next t →
      (frameFlag t = true ↔ m = s.cfg.timing.lineCycles * s.cfg.timing.firstVisible)

/-- R422, R425, R426: outside the long-sync lines every cycle keeps the column law, so on every depth line of a character row the
screen-code fetch of column j has the address `vm_base + vmc_latch + j`. -/
def Obligations.ScreenCodeAddressByColumn : Prop :=
  (∀ cfg m clock c o, ColumnLaw c → inLongSync cfg.timing c.v = false → vicCycle cfg m clock c = .next o →
    ColumnLaw o.1) ∧
  ∀ c, ColumnLaw c → c.fs = .screenCode →
    screenAddress c = matrixBase c.reg + (c.vmcLatch + fetchColumn c).setWidth 14

/-- R409, R433, R434: every cycle gives exactly eight output units; before `first_visible` all are of the line's vertical kind
(short sync, long sync, short sync, then vertical blanking), outside the visible cycles of a line all are horizontal blanking,
and inside them each chip pixel is two units, but for the swallowed ones at both ends of the line. -/
def Obligations.EightUnitsPerCycle : Prop :=
  ∀ cfg m clock c o, vicCycle cfg m clock c = .next o →
    let t := cfg.timing
    o.2.units.length = 8 ∧
    (c.v < t.firstVisible → ∃ k, o.2.units = List.replicate 8 (.blank k) ∧
      (k = .shortSync ↔ c.v < t.vsShort1 ∨
        t.vsShort1 + t.vsLong ≤ c.v ∧ c.v < t.vsShort1 + t.vsLong + t.vsShort2) ∧
      (k = .longSync ↔ t.vsShort1 ≤ c.v ∧ c.v < t.vsShort1 + t.vsLong) ∧
      (k = .vblank ↔ t.vsShort1 + t.vsLong + t.vsShort2 ≤ c.v)) ∧
    (t.firstVisible ≤ c.v → c.h < t.hvisFirst ∨ t.hvisLast < c.h →
      o.2.units = List.replicate 8 (.blank .hblank)) ∧
    (t.firstVisible ≤ c.v → t.hvisFirst ≤ c.h → c.h ≤ t.hvisLast → ∀ i, i < 8 →
      ∃ p, (chipPixels c)[i / 2]? = some p ∧ o.2.units[i]? = some
        (if c.h = t.hvisFirst ∧ i < t.leadSwallow ∨ c.h = t.hvisLast ∧ 8 ≤ i + t.trailSwallow then .blank .hblank
          else .pixel p))

/-- R430, R431, R432: the examples of the rules, for every other part of the chip's state: `pipe = $A5` in hi-res (normal and
reverse video) and in multicolour, both halves, and the border outside the matrix; and `pipe = $1B` in multicolour, which shows
all four pairs, for all colours and both values of the reverse bit. -/
def Obligations.PixelsOfTheRulesExamples : Prop :=
  (∀ c : Vic, c.pipe = 0xA5#8 →
    (c.pipeColour = 0x2#4 → c.reg.rF = 0x1B#8 →
      (c.pixLeft = 2 → chipPixels c = [2#4, 1#4, 2#4, 1#4]) ∧ (c.pixLeft = 1 → chipPixels c = [1#4, 2#4, 1#4, 2#4])) ∧
    (c.pipeColour = 0x2#4 → c.reg.rF = 0x13#8 →
      (c.pixLeft = 2 → chipPixels c = [1#4, 2#4, 1#4, 2#4]) ∧ (c.pixLeft = 1 → chipPixels c = [2#4, 1#4, 2#4, 1#4])) ∧
    (c.pipeColour = 0xA#4 → border c.reg = 3#4 →
      (c.pixLeft = 2 → chipPixels c = [2#4, 2#4, 2#4, 2#4]) ∧ (c.pixLeft = 1 → chipPixels c = [3#4, 3#4, 3#4, 3#4])) ∧
    (c.pixLeft = 0 → chipPixels c = [border c.reg, border c.reg, border c.reg, border c.reg])) ∧
  ∀ c : Vic, c.pipe = 0x1B#8 → c.pipeColour.getLsbD 3 = true →
    let background := c.reg.rF.extractLsb' 4 4
    let border : BitVec 4 := 0#1 ++ c.reg.rF.extractLsb' 0 3
    let foreground : BitVec 4 := 0#1 ++ c.pipeColour.extractLsb' 0 3
    let auxiliary := c.reg.rE.extractLsb' 4 4
    (c.pixLeft = 2 → chipPixels c = [background, background, border, border]) ∧
      (c.pixLeft = 1 → chipPixels c = [foreground, foreground, auxiliary, auxiliary])

/-- R410, R411, R413: a write of register 0 is refused exactly when it sets bit 7; registers 0, 1, 2, 5 and A to F read back what
was written and register 3 its low seven bits; registers 4 and 6 to 9 ignore writes; a write changes no other register; and
registers 3 and 4 read the raster. -/
def Obligations.VideoRegisters : Prop :=
  (∀ r v c, vicWrite r v c = .refused .unmodelledInterlace ↔ r = 0#4 ∧ v.getLsbD 7 = true) ∧
  (∀ r v c c' clock, vicWrite r v c = .next c' →
    (r ≠ 3#4 → r ≠ 4#4 → r ≠ 6#4 → r ≠ 7#4 → r ≠ 8#4 → r ≠ 9#4 → vicRead r clock c' = v) ∧
    (r = 3#4 → (vicRead r clock c').extractLsb' 0 7 = v.extractLsb' 0 7) ∧
    (r = 4#4 ∨ r = 6#4 ∨ r = 7#4 ∨ r = 8#4 ∨ r = 9#4 → c' = c) ∧
    ∀ q, q ≠ r → vicReg c'.reg q = vicReg c.reg q) ∧
  ∀ (c : Vic) clock, c.v < 512 →
    (vicRead 4#4 clock c).toNat * 2 + ((vicRead 3#4 clock c).extractLsb' 7 1).toNat = c.v

/-- R441, R442: a tone voice's shift register steps once in every F + 1 of its clocks, shifting left with the inverse of bit 7; from
zero, its bit 0 is 1 for eight steps, then 0 for eight, and the register is zero again after sixteen. R443: so does the noise
voice's, with the OPEN feedback in bit 0, and the noise register shifts left with the exclusive or of its bits 3, 12, 14 and 15
exactly when bit 0 of that shift register goes from 0 to 1. -/
def Obligations.ToneVoiceSquareWave : Prop :=
  (∀ (f : BitVec 7) (w : Voice),
    toneClocks f (w.cnt.toNat + 1) w =
      ⟨f, w.sr.extractLsb' 0 7 ++ BitVec.ofBool (!w.sr.getLsbD 7)⟩ ∧
    ∀ n, n ≤ w.cnt.toNat → (toneClocks f n w).sr = w.sr) ∧
  (∀ (f : BitVec 7) (k : Nat),
    (toneClocks f ((f.toNat + 1) * k) ⟨f, 0#8⟩).cnt = f ∧
    ((toneClocks f ((f.toNat + 1) * (k + 1)) ⟨f, 0#8⟩).sr.getLsbD 0 = true ↔ k % 16 < 8) ∧
    (k % 16 = 0 → (toneClocks f ((f.toNat + 1) * k) ⟨f, 0#8⟩).sr = 0#8)) ∧
  ∀ (f : BitVec 7) (l : BitVec 16) (w : Voice),
    let sr : Byte := w.sr.extractLsb' 0 7 ++ BitVec.ofBool (Config.noiseFeedback w.sr l)
    let feedback := xor (l.getLsbD 3) (xor (l.getLsbD 12) (xor (l.getLsbD 14) (l.getLsbD 15)))
    (w.cnt ≠ 0#7 → noiseClock f l w = ({ w with cnt := w.cnt - 1 }, l)) ∧
    (w.cnt = 0#7 → noiseClock f l w =
      (⟨f, sr⟩, if w.sr.getLsbD 0 = false ∧ sr.getLsbD 0 = true then l.extractLsb' 0 15 ++ BitVec.ofBool feedback else l))

/-- R444: over n clocks the chip emits `(sacc + n) / sample_ratio` samples, rounded down, and keeps the remainder; a sample is the
volume times the sum of the weights of the enabled voices whose bit 0 is 1, so it is 0 at volume 0. R440: the prescaler counts the
clocks mod `16 * voice_clock_unit`, and the voices are clocked when it is a multiple of 16, 8, 4 and 2 units. That this is the
prescaler's new value, and that the voices step before the sample of their clock is mixed, is the model's reading (log entry
23). -/
def Obligations.AudioSamples : Prop :=
  (∀ n s t, Invariant s → s.cfg.sampleRate ≤ s.cfg.timing.clockHz → runCycles n s = .next t →
    ((t.sink.take n).filter (fun o => o.sample.isSome)).length =
      (s.vic.sacc + n * s.cfg.sampleRate) / s.cfg.timing.clockHz ∧
    t.vic.sacc = (s.vic.sacc + n * s.cfg.sampleRate) % s.cfg.timing.clockHz) ∧
  (∀ cfg (c : Vic), c.reg.rE.extractLsb' 0 4 = 0#4 → mixedSample cfg c = 0) ∧
  (∀ cfg m clock c o x, vicCycle cfg m clock c = .next o → o.2.sample = some x → x = mixedSample cfg o.1) ∧
  (∀ cfg m clock c o, vicCycle cfg m clock c = .next o →
    let k := (c.apre + 1) % (16 * cfg.voiceClockUnit)
    let clocked := fun (div : Nat) (r : Byte) (w : Voice) =>
      if k % (div * cfg.voiceClockUnit) = 0 then toneClock (r.extractLsb' 0 7) w else w
    o.1.apre = k ∧ o.1.voice0 = clocked 16 c.reg.rA c.voice0 ∧ o.1.voice1 = clocked 8 c.reg.rB c.voice1 ∧
      o.1.voice2 = clocked 4 c.reg.rC c.voice2 ∧
      (o.1.voice3, o.1.lfsr) = if k % (2 * cfg.voiceClockUnit) = 0
        then noiseClock (c.reg.rD.extractLsb' 0 7) c.lfsr c.voice3 else (c.voice3, c.lfsr)) ∧
  ∀ cfg (c : Vic),
    let part := fun (reg : Byte) (w : Voice) (weight : Int) => (reg.toNat / 128 : Int) * (w.sr.toNat % 2) * weight
    mixedSample cfg c = (c.reg.rE.toNat % 16 : Int) *
      (part c.reg.rA c.voice0 cfg.weight0 + part c.reg.rB c.voice1 cfg.weight1 + part c.reg.rC c.voice2 cfg.weight2 +
        part c.reg.rD c.voice3 cfg.weight3)

/-! ## The timers' registers -/

/-- R351, R352, R355: each write and read of registers 4 to 9 of a timer chip: which latch or counter it writes or gives, which
flag it clears, and that only the writes of registers 5 and 9 load a counter. -/
def Obligations.TimerRegisterAccesses : Prop :=
  (∀ v c,
    viaWrite 4#4 v c = .next { c with t1l := c.t1l.extractLsb' 8 8 ++ v } ∧
    viaWrite 6#4 v c = .next { c with t1l := c.t1l.extractLsb' 8 8 ++ v } ∧
    viaWrite 7#4 v c = .next { c with t1l := v ++ c.t1l.extractLsb' 0 8, ifr := c.ifr &&& 0x3F#7 } ∧
    viaWrite 5#4 v c = .next
      { c with
        t1l := v ++ c.t1l.extractLsb' 0 8
        t1c := v ++ c.t1l.extractLsb' 0 8
        ifr := c.ifr &&& 0x3F#7
        t1Armed := true
        t1Loaded := true
        pb7 := if c.acr.getLsbD 7 then false else c.pb7 } ∧
    viaWrite 8#4 v c = .next { c with t2l := v } ∧
    viaWrite 9#4 v c = .next
      { c with t2c := v ++ c.t2l, ifr := c.ifr &&& 0x5F#7, t2Armed := true, t2Loaded := true }) ∧
  ∀ pins c,
    viaRead 4#4 pins c = (c.t1c.extractLsb' 0 8, { c with ifr := c.ifr &&& 0x3F#7 }) ∧
    viaRead 5#4 pins c = (c.t1c.extractLsb' 8 8, c) ∧
    viaRead 6#4 pins c = (c.t1l.extractLsb' 0 8, c) ∧
    viaRead 7#4 pins c = (c.t1l.extractLsb' 8 8, c) ∧
    viaRead 8#4 pins c = (c.t2c.extractLsb' 0 8, { c with ifr := c.ifr &&& 0x5F#7 }) ∧
    viaRead 9#4 pins c = (c.t2c.extractLsb' 8 8, c)
end

