-- ==== Sys2Proof/Laws/Memory.lean ====
section
/-! SUPPORT. The laws of memory: reading after a write, and the canonical form kept by every memory operation. -/

namespace Sys2Proof.Machine

theorem memWfFrom_mono {lo lo' : Nat} (h : lo ≤ lo') : ∀ {m}, memWfFrom lo' m = true → memWfFrom lo m = true
  | [], _ => rfl
  | (k, v) :: rest, hm => by
    simp only [memWfFrom, Bool.and_eq_true, decide_eq_true_eq] at hm ⊢
    exact ⟨⟨⟨by omega, hm.1.1.2⟩, hm.1.2⟩, hm.2⟩

/-- An address below the first listed one reads as an unlisted address. -/
theorem memGet_of_wfFrom : ∀ {m lo a}, memWfFrom lo m = true → a < lo → memGet m a = unlistedByte
  | [], _, _, _, _ => rfl
  | (k, v) :: rest, lo, a, hm, ha => by
    simp only [memWfFrom, Bool.and_eq_true, decide_eq_true_eq] at hm
    have hk : a ≠ k := by omega
    simp only [memGet, if_neg hk]
    exact memGet_of_wfFrom hm.2 (by omega)

theorem memGet_memCons {m : List Host.Cell} {a : Nat} (v : Byte) (h : memGet m a = unlistedByte) (b : Nat) :
    memGet (memCons a v m) b = if b = a then v else memGet m b := by
  unfold memCons
  split
  · split
    · subst_vars; assumption
    · rfl
  · rfl

/-- Reading after a write of one byte (R80, R81), for a memory in canonical form. -/
theorem memGet_memPut : ∀ {m : List Host.Cell} {lo : Nat} (_ : memWfFrom lo m = true) (a : Nat) (v : Byte) (b : Nat),
    memGet (memPut m a v) b = if b = a then v else memGet m b
  | [], lo, _, a, v, b => memGet_memCons v rfl b
  | (k, w) :: rest, lo, hm, a, v, b => by
    have hm' := hm
    simp only [memWfFrom, Bool.and_eq_true, decide_eq_true_eq] at hm
    unfold memPut
    split
    · refine memGet_memCons v ?_ b
      have : memWfFrom k ((k, w) :: rest) = true := by
        simp only [memWfFrom, Bool.and_eq_true, decide_eq_true_eq]
        exact ⟨⟨⟨Nat.le_refl k, hm.1.1.2⟩, hm.1.2⟩, hm.2⟩
      exact memGet_of_wfFrom this ‹_›
    · split
      · subst_vars
        rw [memGet_memCons v (memGet_of_wfFrom hm.2 (by omega)) b]
        by_cases h : b = a <;> simp [memGet, h]
      · simp only [memGet, memGet_memPut hm.2 a v b]
        split <;> split <;> simp_all

theorem memWfFrom_memCons {m : List Host.Cell} {lo a : Nat} (v : Byte) (hl : lo ≤ a) (ha : a < 65536)
    (h : memWfFrom (a + 1) m = true) : memWfFrom lo (memCons a v m) = true := by
  unfold memCons
  split
  · exact memWfFrom_mono (by omega) h
  · rename_i hv
    simp [memWfFrom, h, hl, ha, hv]

theorem memWfFrom_memPut : ∀ {m : List Host.Cell} {lo : Nat} (_ : memWfFrom lo m = true) {a : Nat} (v : Byte)
    (_ : lo ≤ a) (_ : a < 65536), memWfFrom lo (memPut m a v) = true
  | [], lo, _, a, v, hl, ha => memWfFrom_memCons v hl ha rfl
  | (k, w) :: rest, lo, hm, a, v, hl, ha => by
    have hm' := hm
    simp only [memWfFrom, Bool.and_eq_true, decide_eq_true_eq] at hm
    unfold memPut
    split
    · refine memWfFrom_memCons v hl ha ?_
      simp only [memWfFrom, Bool.and_eq_true, decide_eq_true_eq]
      exact ⟨⟨⟨by omega, hm.1.1.2⟩, hm.1.2⟩, hm.2⟩
    · split
      · subst_vars
        exact memWfFrom_memCons v hl ha hm.2
      · have := memWfFrom_memPut hm.2 (a := a) v (by omega) ha
        simp only [memWfFrom, Bool.and_eq_true, decide_eq_true_eq]
        exact ⟨hm.1, this⟩

/-- A write of one byte keeps the canonical form. -/
theorem Memory.wf_memPut {m : List Host.Cell} (h : Memory.wf m = true) {a : Nat} (v : Byte) (ha : a < 65536) :
    Memory.wf (memPut m a v) = true :=
  memWfFrom_memPut h v (Nat.zero_le a) ha

/-- A write of a block that ends inside the address space keeps the canonical form. -/
theorem Memory.wf_memLoad : ∀ (l : List Byte) (m : List Host.Cell) (a : Nat), Memory.wf m = true →
    a + l.length ≤ 65536 → Memory.wf (memLoad m a l) = true
  | [], _, _, h, _ => h
  | v :: rest, m, a, h, ha => by
    simp only [List.length_cons] at ha
    exact Memory.wf_memLoad rest (memPut m a v) (a + 1) (Memory.wf_memPut h v (by omega)) (by omega)

/-- Memory as State.reset leaves it is in canonical form. -/
theorem Memory.wf_nil : Memory.wf [] = true := rfl

/-- Reading a cell after a write of one byte. -/
theorem cell_memPut {m : List Host.Cell} (h : Memory.wf m = true) (a : Word) (v : Byte) (b : Word) :
    cell (memPut m a.toNat v) b = if b = a then v else cell m b := by
  simp only [cell, memGet_memPut h, ← BitVec.toNat_inj]

end Sys2Proof.Machine
end

