-- ==== Sys2Proof/Laws/State.lean ====
section
/-! SUPPORT. One lemma for each field under each update of State, so that no proof unfolds a record update. -/

namespace Sys2Proof.Machine.State

@[simp] theorem withRegs_cfg (s : State) (r : Regs) : (s.withRegs r).cfg = s.cfg := rfl
@[simp] theorem withRegs_run (s : State) (r : Regs) : (s.withRegs r).run = s.run := rfl
@[simp] theorem withRegs_regs (s : State) (r : Regs) : (s.withRegs r).regs = r := rfl
@[simp] theorem withRegs_nmiPrev (s : State) (r : Regs) : (s.withRegs r).nmiPrev = s.nmiPrev := rfl
@[simp] theorem withRegs_nmiPending (s : State) (r : Regs) : (s.withRegs r).nmiPending = s.nmiPending := rfl
@[simp] theorem withRegs_seq (s : State) (r : Regs) : (s.withRegs r).seq = s.seq := rfl
@[simp] theorem withRegs_mem (s : State) (r : Regs) : (s.withRegs r).mem = s.mem := rfl
@[simp] theorem withRegs_latch (s : State) (r : Regs) : (s.withRegs r).latch = s.latch := rfl
@[simp] theorem withRegs_viaA (s : State) (r : Regs) : (s.withRegs r).viaA = s.viaA := rfl
@[simp] theorem withRegs_viaB (s : State) (r : Regs) : (s.withRegs r).viaB = s.viaB := rfl
@[simp] theorem withRegs_vic (s : State) (r : Regs) : (s.withRegs r).vic = s.vic := rfl
@[simp] theorem withRegs_inp (s : State) (r : Regs) : (s.withRegs r).inp = s.inp := rfl
@[simp] theorem withRegs_inputs (s : State) (r : Regs) : (s.withRegs r).inputs = s.inputs := rfl
@[simp] theorem withRegs_clock (s : State) (r : Regs) : (s.withRegs r).clock = s.clock := rfl
@[simp] theorem withRegs_sink (s : State) (r : Regs) : (s.withRegs r).sink = s.sink := rfl

@[simp] theorem withMem_cfg (s : State) (m : List Host.Cell) : (s.withMem m).cfg = s.cfg := rfl
@[simp] theorem withMem_run (s : State) (m : List Host.Cell) : (s.withMem m).run = s.run := rfl
@[simp] theorem withMem_regs (s : State) (m : List Host.Cell) : (s.withMem m).regs = s.regs := rfl
@[simp] theorem withMem_nmiPrev (s : State) (m : List Host.Cell) : (s.withMem m).nmiPrev = s.nmiPrev := rfl
@[simp] theorem withMem_nmiPending (s : State) (m : List Host.Cell) : (s.withMem m).nmiPending = s.nmiPending := rfl
@[simp] theorem withMem_seq (s : State) (m : List Host.Cell) : (s.withMem m).seq = s.seq := rfl
@[simp] theorem withMem_mem (s : State) (m : List Host.Cell) : (s.withMem m).mem = m := rfl
@[simp] theorem withMem_latch (s : State) (m : List Host.Cell) : (s.withMem m).latch = s.latch := rfl
@[simp] theorem withMem_viaA (s : State) (m : List Host.Cell) : (s.withMem m).viaA = s.viaA := rfl
@[simp] theorem withMem_viaB (s : State) (m : List Host.Cell) : (s.withMem m).viaB = s.viaB := rfl
@[simp] theorem withMem_vic (s : State) (m : List Host.Cell) : (s.withMem m).vic = s.vic := rfl
@[simp] theorem withMem_inp (s : State) (m : List Host.Cell) : (s.withMem m).inp = s.inp := rfl
@[simp] theorem withMem_inputs (s : State) (m : List Host.Cell) : (s.withMem m).inputs = s.inputs := rfl
@[simp] theorem withMem_clock (s : State) (m : List Host.Cell) : (s.withMem m).clock = s.clock := rfl
@[simp] theorem withMem_sink (s : State) (m : List Host.Cell) : (s.withMem m).sink = s.sink := rfl

@[simp] theorem withLatch_cfg (s : State) (v : Byte) : (s.withLatch v).cfg = s.cfg := rfl
@[simp] theorem withLatch_run (s : State) (v : Byte) : (s.withLatch v).run = s.run := rfl
@[simp] theorem withLatch_regs (s : State) (v : Byte) : (s.withLatch v).regs = s.regs := rfl
@[simp] theorem withLatch_nmiPrev (s : State) (v : Byte) : (s.withLatch v).nmiPrev = s.nmiPrev := rfl
@[simp] theorem withLatch_nmiPending (s : State) (v : Byte) : (s.withLatch v).nmiPending = s.nmiPending := rfl
@[simp] theorem withLatch_seq (s : State) (v : Byte) : (s.withLatch v).seq = s.seq := rfl
@[simp] theorem withLatch_mem (s : State) (v : Byte) : (s.withLatch v).mem = s.mem := rfl
@[simp] theorem withLatch_latch (s : State) (v : Byte) : (s.withLatch v).latch = v := rfl
@[simp] theorem withLatch_viaA (s : State) (v : Byte) : (s.withLatch v).viaA = s.viaA := rfl
@[simp] theorem withLatch_viaB (s : State) (v : Byte) : (s.withLatch v).viaB = s.viaB := rfl
@[simp] theorem withLatch_vic (s : State) (v : Byte) : (s.withLatch v).vic = s.vic := rfl
@[simp] theorem withLatch_inp (s : State) (v : Byte) : (s.withLatch v).inp = s.inp := rfl
@[simp] theorem withLatch_inputs (s : State) (v : Byte) : (s.withLatch v).inputs = s.inputs := rfl
@[simp] theorem withLatch_clock (s : State) (v : Byte) : (s.withLatch v).clock = s.clock := rfl
@[simp] theorem withLatch_sink (s : State) (v : Byte) : (s.withLatch v).sink = s.sink := rfl

@[simp] theorem withViaA_cfg (s : State) (c : Via) : (s.withViaA c).cfg = s.cfg := rfl
@[simp] theorem withViaA_run (s : State) (c : Via) : (s.withViaA c).run = s.run := rfl
@[simp] theorem withViaA_regs (s : State) (c : Via) : (s.withViaA c).regs = s.regs := rfl
@[simp] theorem withViaA_nmiPrev (s : State) (c : Via) : (s.withViaA c).nmiPrev = s.nmiPrev := rfl
@[simp] theorem withViaA_nmiPending (s : State) (c : Via) : (s.withViaA c).nmiPending = s.nmiPending := rfl
@[simp] theorem withViaA_seq (s : State) (c : Via) : (s.withViaA c).seq = s.seq := rfl
@[simp] theorem withViaA_mem (s : State) (c : Via) : (s.withViaA c).mem = s.mem := rfl
@[simp] theorem withViaA_latch (s : State) (c : Via) : (s.withViaA c).latch = s.latch := rfl
@[simp] theorem withViaA_viaA (s : State) (c : Via) : (s.withViaA c).viaA = c := rfl
@[simp] theorem withViaA_viaB (s : State) (c : Via) : (s.withViaA c).viaB = s.viaB := rfl
@[simp] theorem withViaA_vic (s : State) (c : Via) : (s.withViaA c).vic = s.vic := rfl
@[simp] theorem withViaA_inp (s : State) (c : Via) : (s.withViaA c).inp = s.inp := rfl
@[simp] theorem withViaA_inputs (s : State) (c : Via) : (s.withViaA c).inputs = s.inputs := rfl
@[simp] theorem withViaA_clock (s : State) (c : Via) : (s.withViaA c).clock = s.clock := rfl
@[simp] theorem withViaA_sink (s : State) (c : Via) : (s.withViaA c).sink = s.sink := rfl

@[simp] theorem withViaB_cfg (s : State) (c : Via) : (s.withViaB c).cfg = s.cfg := rfl
@[simp] theorem withViaB_run (s : State) (c : Via) : (s.withViaB c).run = s.run := rfl
@[simp] theorem withViaB_regs (s : State) (c : Via) : (s.withViaB c).regs = s.regs := rfl
@[simp] theorem withViaB_nmiPrev (s : State) (c : Via) : (s.withViaB c).nmiPrev = s.nmiPrev := rfl
@[simp] theorem withViaB_nmiPending (s : State) (c : Via) : (s.withViaB c).nmiPending = s.nmiPending := rfl
@[simp] theorem withViaB_seq (s : State) (c : Via) : (s.withViaB c).seq = s.seq := rfl
@[simp] theorem withViaB_mem (s : State) (c : Via) : (s.withViaB c).mem = s.mem := rfl
@[simp] theorem withViaB_latch (s : State) (c : Via) : (s.withViaB c).latch = s.latch := rfl
@[simp] theorem withViaB_viaA (s : State) (c : Via) : (s.withViaB c).viaA = s.viaA := rfl
@[simp] theorem withViaB_viaB (s : State) (c : Via) : (s.withViaB c).viaB = c := rfl
@[simp] theorem withViaB_vic (s : State) (c : Via) : (s.withViaB c).vic = s.vic := rfl
@[simp] theorem withViaB_inp (s : State) (c : Via) : (s.withViaB c).inp = s.inp := rfl
@[simp] theorem withViaB_inputs (s : State) (c : Via) : (s.withViaB c).inputs = s.inputs := rfl
@[simp] theorem withViaB_clock (s : State) (c : Via) : (s.withViaB c).clock = s.clock := rfl
@[simp] theorem withViaB_sink (s : State) (c : Via) : (s.withViaB c).sink = s.sink := rfl

@[simp] theorem withVic_cfg (s : State) (c : Vic) : (s.withVic c).cfg = s.cfg := rfl
@[simp] theorem withVic_run (s : State) (c : Vic) : (s.withVic c).run = s.run := rfl
@[simp] theorem withVic_regs (s : State) (c : Vic) : (s.withVic c).regs = s.regs := rfl
@[simp] theorem withVic_nmiPrev (s : State) (c : Vic) : (s.withVic c).nmiPrev = s.nmiPrev := rfl
@[simp] theorem withVic_nmiPending (s : State) (c : Vic) : (s.withVic c).nmiPending = s.nmiPending := rfl
@[simp] theorem withVic_seq (s : State) (c : Vic) : (s.withVic c).seq = s.seq := rfl
@[simp] theorem withVic_mem (s : State) (c : Vic) : (s.withVic c).mem = s.mem := rfl
@[simp] theorem withVic_latch (s : State) (c : Vic) : (s.withVic c).latch = s.latch := rfl
@[simp] theorem withVic_viaA (s : State) (c : Vic) : (s.withVic c).viaA = s.viaA := rfl
@[simp] theorem withVic_viaB (s : State) (c : Vic) : (s.withVic c).viaB = s.viaB := rfl
@[simp] theorem withVic_vic (s : State) (c : Vic) : (s.withVic c).vic = c := rfl
@[simp] theorem withVic_inp (s : State) (c : Vic) : (s.withVic c).inp = s.inp := rfl
@[simp] theorem withVic_inputs (s : State) (c : Vic) : (s.withVic c).inputs = s.inputs := rfl
@[simp] theorem withVic_clock (s : State) (c : Vic) : (s.withVic c).clock = s.clock := rfl
@[simp] theorem withVic_sink (s : State) (c : Vic) : (s.withVic c).sink = s.sink := rfl

@[simp] theorem withSeq_cfg (s : State) (q : Option InFlight) : (s.withSeq q).cfg = s.cfg := rfl
@[simp] theorem withSeq_run (s : State) (q : Option InFlight) : (s.withSeq q).run = s.run := rfl
@[simp] theorem withSeq_regs (s : State) (q : Option InFlight) : (s.withSeq q).regs = s.regs := rfl
@[simp] theorem withSeq_nmiPrev (s : State) (q : Option InFlight) : (s.withSeq q).nmiPrev = s.nmiPrev := rfl
@[simp] theorem withSeq_nmiPending (s : State) (q : Option InFlight) : (s.withSeq q).nmiPending = s.nmiPending := rfl
@[simp] theorem withSeq_seq (s : State) (q : Option InFlight) : (s.withSeq q).seq = q := rfl
@[simp] theorem withSeq_mem (s : State) (q : Option InFlight) : (s.withSeq q).mem = s.mem := rfl
@[simp] theorem withSeq_latch (s : State) (q : Option InFlight) : (s.withSeq q).latch = s.latch := rfl
@[simp] theorem withSeq_viaA (s : State) (q : Option InFlight) : (s.withSeq q).viaA = s.viaA := rfl
@[simp] theorem withSeq_viaB (s : State) (q : Option InFlight) : (s.withSeq q).viaB = s.viaB := rfl
@[simp] theorem withSeq_vic (s : State) (q : Option InFlight) : (s.withSeq q).vic = s.vic := rfl
@[simp] theorem withSeq_inp (s : State) (q : Option InFlight) : (s.withSeq q).inp = s.inp := rfl
@[simp] theorem withSeq_inputs (s : State) (q : Option InFlight) : (s.withSeq q).inputs = s.inputs := rfl
@[simp] theorem withSeq_clock (s : State) (q : Option InFlight) : (s.withSeq q).clock = s.clock := rfl
@[simp] theorem withSeq_sink (s : State) (q : Option InFlight) : (s.withSeq q).sink = s.sink := rfl

@[simp] theorem withNmi_cfg (s : State) (a b : Bool) : (s.withNmi a b).cfg = s.cfg := rfl
@[simp] theorem withNmi_run (s : State) (a b : Bool) : (s.withNmi a b).run = s.run := rfl
@[simp] theorem withNmi_regs (s : State) (a b : Bool) : (s.withNmi a b).regs = s.regs := rfl
@[simp] theorem withNmi_nmiPrev (s : State) (a b : Bool) : (s.withNmi a b).nmiPrev = a := rfl
@[simp] theorem withNmi_nmiPending (s : State) (a b : Bool) : (s.withNmi a b).nmiPending = b := rfl
@[simp] theorem withNmi_seq (s : State) (a b : Bool) : (s.withNmi a b).seq = s.seq := rfl
@[simp] theorem withNmi_mem (s : State) (a b : Bool) : (s.withNmi a b).mem = s.mem := rfl
@[simp] theorem withNmi_latch (s : State) (a b : Bool) : (s.withNmi a b).latch = s.latch := rfl
@[simp] theorem withNmi_viaA (s : State) (a b : Bool) : (s.withNmi a b).viaA = s.viaA := rfl
@[simp] theorem withNmi_viaB (s : State) (a b : Bool) : (s.withNmi a b).viaB = s.viaB := rfl
@[simp] theorem withNmi_vic (s : State) (a b : Bool) : (s.withNmi a b).vic = s.vic := rfl
@[simp] theorem withNmi_inp (s : State) (a b : Bool) : (s.withNmi a b).inp = s.inp := rfl
@[simp] theorem withNmi_inputs (s : State) (a b : Bool) : (s.withNmi a b).inputs = s.inputs := rfl
@[simp] theorem withNmi_clock (s : State) (a b : Bool) : (s.withNmi a b).clock = s.clock := rfl
@[simp] theorem withNmi_sink (s : State) (a b : Bool) : (s.withNmi a b).sink = s.sink := rfl

@[simp] theorem withNmiPending_cfg (s : State) (b : Bool) : (s.withNmiPending b).cfg = s.cfg := rfl
@[simp] theorem withNmiPending_run (s : State) (b : Bool) : (s.withNmiPending b).run = s.run := rfl
@[simp] theorem withNmiPending_regs (s : State) (b : Bool) : (s.withNmiPending b).regs = s.regs := rfl
@[simp] theorem withNmiPending_nmiPrev (s : State) (b : Bool) : (s.withNmiPending b).nmiPrev = s.nmiPrev := rfl
@[simp] theorem withNmiPending_nmiPending (s : State) (b : Bool) : (s.withNmiPending b).nmiPending = b := rfl
@[simp] theorem withNmiPending_seq (s : State) (b : Bool) : (s.withNmiPending b).seq = s.seq := rfl
@[simp] theorem withNmiPending_mem (s : State) (b : Bool) : (s.withNmiPending b).mem = s.mem := rfl
@[simp] theorem withNmiPending_latch (s : State) (b : Bool) : (s.withNmiPending b).latch = s.latch := rfl
@[simp] theorem withNmiPending_viaA (s : State) (b : Bool) : (s.withNmiPending b).viaA = s.viaA := rfl
@[simp] theorem withNmiPending_viaB (s : State) (b : Bool) : (s.withNmiPending b).viaB = s.viaB := rfl
@[simp] theorem withNmiPending_vic (s : State) (b : Bool) : (s.withNmiPending b).vic = s.vic := rfl
@[simp] theorem withNmiPending_inp (s : State) (b : Bool) : (s.withNmiPending b).inp = s.inp := rfl
@[simp] theorem withNmiPending_inputs (s : State) (b : Bool) : (s.withNmiPending b).inputs = s.inputs := rfl
@[simp] theorem withNmiPending_clock (s : State) (b : Bool) : (s.withNmiPending b).clock = s.clock := rfl
@[simp] theorem withNmiPending_sink (s : State) (b : Bool) : (s.withNmiPending b).sink = s.sink := rfl

@[simp] theorem withInputs_cfg (s : State) (i : HostInputs) (l : List HostInputs) : (s.withInputs i l).cfg = s.cfg := rfl
@[simp] theorem withInputs_run (s : State) (i : HostInputs) (l : List HostInputs) : (s.withInputs i l).run = s.run := rfl
@[simp] theorem withInputs_regs (s : State) (i : HostInputs) (l : List HostInputs) : (s.withInputs i l).regs = s.regs := rfl
@[simp] theorem withInputs_nmiPrev (s : State) (i : HostInputs) (l : List HostInputs) : (s.withInputs i l).nmiPrev = s.nmiPrev := rfl
@[simp] theorem withInputs_nmiPending (s : State) (i : HostInputs) (l : List HostInputs) : (s.withInputs i l).nmiPending = s.nmiPending := rfl
@[simp] theorem withInputs_seq (s : State) (i : HostInputs) (l : List HostInputs) : (s.withInputs i l).seq = s.seq := rfl
@[simp] theorem withInputs_mem (s : State) (i : HostInputs) (l : List HostInputs) : (s.withInputs i l).mem = s.mem := rfl
@[simp] theorem withInputs_latch (s : State) (i : HostInputs) (l : List HostInputs) : (s.withInputs i l).latch = s.latch := rfl
@[simp] theorem withInputs_viaA (s : State) (i : HostInputs) (l : List HostInputs) : (s.withInputs i l).viaA = s.viaA := rfl
@[simp] theorem withInputs_viaB (s : State) (i : HostInputs) (l : List HostInputs) : (s.withInputs i l).viaB = s.viaB := rfl
@[simp] theorem withInputs_vic (s : State) (i : HostInputs) (l : List HostInputs) : (s.withInputs i l).vic = s.vic := rfl
@[simp] theorem withInputs_inp (s : State) (i : HostInputs) (l : List HostInputs) : (s.withInputs i l).inp = i := rfl
@[simp] theorem withInputs_inputs (s : State) (i : HostInputs) (l : List HostInputs) : (s.withInputs i l).inputs = l := rfl
@[simp] theorem withInputs_clock (s : State) (i : HostInputs) (l : List HostInputs) : (s.withInputs i l).clock = s.clock := rfl
@[simp] theorem withInputs_sink (s : State) (i : HostInputs) (l : List HostInputs) : (s.withInputs i l).sink = s.sink := rfl

@[simp] theorem emit_cfg (s : State) (o : ClockOut) : (s.emit o).cfg = s.cfg := rfl
@[simp] theorem emit_run (s : State) (o : ClockOut) : (s.emit o).run = s.run := rfl
@[simp] theorem emit_regs (s : State) (o : ClockOut) : (s.emit o).regs = s.regs := rfl
@[simp] theorem emit_nmiPrev (s : State) (o : ClockOut) : (s.emit o).nmiPrev = s.nmiPrev := rfl
@[simp] theorem emit_nmiPending (s : State) (o : ClockOut) : (s.emit o).nmiPending = s.nmiPending := rfl
@[simp] theorem emit_seq (s : State) (o : ClockOut) : (s.emit o).seq = s.seq := rfl
@[simp] theorem emit_mem (s : State) (o : ClockOut) : (s.emit o).mem = s.mem := rfl
@[simp] theorem emit_latch (s : State) (o : ClockOut) : (s.emit o).latch = s.latch := rfl
@[simp] theorem emit_viaA (s : State) (o : ClockOut) : (s.emit o).viaA = s.viaA := rfl
@[simp] theorem emit_viaB (s : State) (o : ClockOut) : (s.emit o).viaB = s.viaB := rfl
@[simp] theorem emit_vic (s : State) (o : ClockOut) : (s.emit o).vic = s.vic := rfl
@[simp] theorem emit_inp (s : State) (o : ClockOut) : (s.emit o).inp = s.inp := rfl
@[simp] theorem emit_inputs (s : State) (o : ClockOut) : (s.emit o).inputs = s.inputs := rfl
@[simp] theorem emit_clock (s : State) (o : ClockOut) : (s.emit o).clock = s.clock := rfl
@[simp] theorem emit_sink (s : State) (o : ClockOut) : (s.emit o).sink = o :: s.sink := rfl

@[simp] theorem tick_cfg (s : State) : s.tick.cfg = s.cfg := rfl
@[simp] theorem tick_run (s : State) : s.tick.run = s.run := rfl
@[simp] theorem tick_regs (s : State) : s.tick.regs = s.regs := rfl
@[simp] theorem tick_nmiPrev (s : State) : s.tick.nmiPrev = s.nmiPrev := rfl
@[simp] theorem tick_nmiPending (s : State) : s.tick.nmiPending = s.nmiPending := rfl
@[simp] theorem tick_seq (s : State) : s.tick.seq = s.seq := rfl
@[simp] theorem tick_mem (s : State) : s.tick.mem = s.mem := rfl
@[simp] theorem tick_latch (s : State) : s.tick.latch = s.latch := rfl
@[simp] theorem tick_viaA (s : State) : s.tick.viaA = s.viaA := rfl
@[simp] theorem tick_viaB (s : State) : s.tick.viaB = s.viaB := rfl
@[simp] theorem tick_vic (s : State) : s.tick.vic = s.vic := rfl
@[simp] theorem tick_inp (s : State) : s.tick.inp = s.inp := rfl
@[simp] theorem tick_inputs (s : State) : s.tick.inputs = s.inputs := rfl
@[simp] theorem tick_clock (s : State) : s.tick.clock = s.clock + 1 := rfl
@[simp] theorem tick_sink (s : State) : s.tick.sink = s.sink := rfl

@[simp] theorem withRun_cfg (s : State) (r : RunState) : (s.withRun r).cfg = s.cfg := rfl
@[simp] theorem withRun_run (s : State) (r : RunState) : (s.withRun r).run = r := rfl
@[simp] theorem withRun_regs (s : State) (r : RunState) : (s.withRun r).regs = s.regs := rfl
@[simp] theorem withRun_nmiPrev (s : State) (r : RunState) : (s.withRun r).nmiPrev = s.nmiPrev := rfl
@[simp] theorem withRun_nmiPending (s : State) (r : RunState) : (s.withRun r).nmiPending = s.nmiPending := rfl
@[simp] theorem withRun_seq (s : State) (r : RunState) : (s.withRun r).seq = s.seq := rfl
@[simp] theorem withRun_mem (s : State) (r : RunState) : (s.withRun r).mem = s.mem := rfl
@[simp] theorem withRun_latch (s : State) (r : RunState) : (s.withRun r).latch = s.latch := rfl
@[simp] theorem withRun_viaA (s : State) (r : RunState) : (s.withRun r).viaA = s.viaA := rfl
@[simp] theorem withRun_viaB (s : State) (r : RunState) : (s.withRun r).viaB = s.viaB := rfl
@[simp] theorem withRun_vic (s : State) (r : RunState) : (s.withRun r).vic = s.vic := rfl
@[simp] theorem withRun_inp (s : State) (r : RunState) : (s.withRun r).inp = s.inp := rfl
@[simp] theorem withRun_inputs (s : State) (r : RunState) : (s.withRun r).inputs = s.inputs := rfl
@[simp] theorem withRun_clock (s : State) (r : RunState) : (s.withRun r).clock = s.clock := rfl
@[simp] theorem withRun_sink (s : State) (r : RunState) : (s.withRun r).sink = s.sink := rfl

@[simp] theorem withRegs_self (s : State) : s.withRegs s.regs = s := rfl

@[simp] theorem withRegs_withRegs (s : State) (r q : Regs) : (s.withRegs r).withRegs q = s.withRegs q := rfl

end Sys2Proof.Machine.State
end

