-- ==== Sys2Proof/Laws/Via.lean ====
section
/-! SUPPORT. What a timer chip's cycle, read and write can do to its programmed registers, and which writes are refused. -/

namespace Sys2Proof.Machine

@[simp] theorem controlStep_programmed (pins : PortInputs) (c : Via) :
    (controlStep pins c).programmed = c.programmed := rfl

@[simp] theorem timer1Step_programmed (c : Via) : (timer1Step c).programmed = c.programmed := by
  unfold timer1Step; repeat' split
  all_goals rfl

@[simp] theorem timer2Step_programmed (c : Via) : (timer2Step c).programmed = c.programmed := by
  unfold timer2Step; repeat' split
  all_goals rfl

/-- A cycle of a timer chip changes no programmed register (R368). -/
@[simp] theorem viaCycle_programmed (pins : PortInputs) (c : Via) : (viaCycle pins c).programmed = c.programmed := by
  simp [viaCycle]

/-- A read of a timer chip changes no programmed register (R347). -/
@[simp] theorem viaRead_programmed (r : BitVec 4) (pins : PortInputs) (c : Via) :
    (viaRead r pins c).2.programmed = c.programmed := by
  unfold viaRead; split <;> rfl

theorem acr_of_programmed {c d : Via} (h : c.programmed = d.programmed) : c.acr = d.acr := congrArg Programmed.acr h

theorem pcr_of_programmed {c d : Via} (h : c.programmed = d.programmed) : c.pcr = d.pcr := congrArg Programmed.pcr h

theorem Via.legal_of_programmed {c d : Via} (h : c.programmed = d.programmed) : c.legal ↔ d.legal := by
  simp [Via.legal, acr_of_programmed h, pcr_of_programmed h]

/-- The stored registers are programmed registers. -/
theorem storedViaRegister_of_programmed {c d : Via} (h : c.programmed = d.programmed) (r : BitVec 4) :
    storedViaRegister r c = storedViaRegister r d := by
  simp only [Via.programmed, Programmed.mk.injEq] at h
  unfold storedViaRegister
  split <;> simp [h]

/-- A read of a stored register gives its value (R347). -/
theorem viaRead_stored {r : BitVec 4} {c : Via} {v : Byte} (pins : PortInputs) (h : storedViaRegister r c = some v) :
    (viaRead r pins c).1 = v := by
  unfold storedViaRegister at h
  unfold viaRead
  split at h <;> simp_all

/-- A write of a timer chip is refused exactly by the rules of R367. -/
theorem viaWrite_next {r : BitVec 4} {v : Byte} (h : (r = 11#4 → acrRefusal v = none) ∧ (r = 12#4 → pcrRefusal v = none))
    (c : Via) : ∃ c', viaWrite r v c = .next c' := by
  have h11 : r.toNat = 11 → r = 11#4 := fun e => BitVec.eq_of_toNat_eq e
  have h12 : r.toNat = 12 → r = 12#4 := fun e => BitVec.eq_of_toNat_eq e
  unfold viaWrite
  split <;> try exact ⟨_, rfl⟩
  · rw [h.1 (h11 ‹_›)]; exact ⟨_, rfl⟩
  · rw [h.2 (h12 ‹_›)]; exact ⟨_, rfl⟩

/-- What a write leaves in the programmed registers depends on them and on the byte alone. -/
theorem viaWrite_programmed {r : BitVec 4} {v : Byte} {c c' d : Via} (h : c.programmed = d.programmed)
    (hw : viaWrite r v c = .next c') : ∃ d', viaWrite r v d = .next d' ∧ c'.programmed = d'.programmed := by
  simp only [Via.programmed, Programmed.mk.injEq] at h
  unfold viaWrite at hw ⊢
  split at hw <;> try split at hw
  all_goals first
    | (cases hw; done)
    | (cases hw
       refine ⟨_, rfl, ?_⟩
       simp [Via.programmed, h, clearPortBFlags, clearPortAFlags, loadT1, loadT2, writeIer, writePcr])

/-- A write that is not refused leaves no refused mode (R367). -/
theorem viaWrite_legal {r : BitVec 4} {v : Byte} {c c' : Via} (hc : c.legal) (hw : viaWrite r v c = .next c') :
    c'.legal := by
  unfold viaWrite at hw
  split at hw <;> try split at hw
  all_goals first
    | (cases hw; done)
    | (cases hw
       simp_all [Via.legal, clearPortBFlags, clearPortAFlags, loadT1, loadT2, writeIer, writePcr])

theorem ViaWritten.of_programmed {r : BitVec 4} : ∀ {vs : List Byte} {c d : Via} {p : Programmed},
    c.programmed = d.programmed → ViaWritten r vs c p → ViaWritten r vs d p
  | [], _, _, _, h, hp => hp.trans h
  | _ :: _, _, _, _, h, ⟨_, hw, hr⟩ =>
    let ⟨d', hd, he⟩ := viaWrite_programmed h hw
    ⟨d', hd, hr.of_programmed he⟩

theorem ViaWritten.append {r : BitVec 4} : ∀ {vs ws : List Byte} {c d : Via} {p : Programmed},
    ViaWritten r vs c d.programmed → ViaWritten r ws d p → ViaWritten r (vs ++ ws) c p
  | [], _, _, _, _, h, hp => hp.of_programmed h
  | _ :: _, _, _, _, _, ⟨c', hw, hr⟩, hp => ⟨c', hw, hr.append hp⟩

end Sys2Proof.Machine
end

