-- ==== Sys2Proof/Laws/Vic.lean ====
section
/-! SUPPORT. What the video/audio chip's cycle can do: it keeps the registers, never enters the unreachable fetch state, and keeps
the chip's invariant. -/

namespace Sys2Proof.Machine

@[simp] theorem shiftPipe_reg (c : Vic) : (shiftPipe c).reg = c.reg := rfl

@[simp] theorem fetchCase_reg (cfg : Config) (m : List Host.Cell) (d : Byte) (c : Vic) :
    (fetchCase cfg m d c).reg = c.reg := by
  unfold fetchCase startMatrixLine; repeat' split
  all_goals rfl

@[simp] theorem fetchStep_reg (cfg : Config) (m : List Host.Cell) (d : Byte) (c : Vic) :
    (fetchStep cfg m d c).reg = c.reg := by
  unfold fetchStep; simp only []; split <;> simp

@[simp] theorem voicesStep_reg (cfg : Config) (c : Vic) : (voicesStep cfg c).reg = c.reg := rfl

@[simp] theorem sampleStep_reg (cfg : Config) (c : Vic) : (sampleStep cfg c).1.reg = c.reg := by
  unfold sampleStep; simp only []; split <;> rfl

@[simp] theorem rasterStep_reg (cfg : Config) (c : Vic) : (rasterStep cfg c).reg = c.reg := rfl

/-- The chip's cycle as one equation, for every fetch state but the unreachable one (R420, R427). -/
theorem vicCycle_eq {c : Vic} (h : c.fs ≠ .inMatrixX) (cfg : Config) (m : List Host.Cell) (clock : Nat) :
    vicCycle cfg m clock c =
      .next (rasterStep cfg (sampleStep cfg (voicesStep cfg
        (fetchStep cfg m (Config.videoAbsentRead clock) (shiftPipe c)))).1,
        ⟨outputUnits cfg.timing c,
          (sampleStep cfg (voicesStep cfg (fetchStep cfg m (Config.videoAbsentRead clock) (shiftPipe c)))).2,
          frameComplete cfg c⟩) := by
  unfold vicCycle
  split
  · exact absurd ‹_› h
  · rfl

theorem fetchCase_fs {c : Vic} (h : c.fs ≠ .inMatrixX) (cfg : Config) (m : List Host.Cell) (d : Byte) :
    (fetchCase cfg m d c).fs ≠ .inMatrixX := by
  unfold fetchCase startMatrixLine
  repeat' split
  all_goals simp_all

theorem fetchStep_fs {c : Vic} (h : c.fs ≠ .inMatrixX) (cfg : Config) (m : List Host.Cell) (d : Byte) :
    (fetchStep cfg m d c).fs ≠ .inMatrixX := by
  unfold fetchStep; simp only []; split
  · exact fetchCase_fs h cfg m d
  · exact fetchCase_fs h cfg m d

theorem sampleStep_fs (cfg : Config) (c : Vic) : (sampleStep cfg c).1.fs = c.fs := by
  unfold sampleStep; simp only []; split <;> rfl

/-- Everything one cycle of the chip can do, for the statements about instructions: it completes, keeps the registers and stays
out of the unreachable fetch state. -/
theorem vicCycle_spec {c : Vic} (h : c.fs ≠ .inMatrixX) (cfg : Config) (m : List Host.Cell) (clock : Nat) :
    ∃ c' out, vicCycle cfg m clock c = .next (c', out) ∧ c'.reg = c.reg ∧ c'.fs ≠ .inMatrixX := by
  refine ⟨_, _, vicCycle_eq h cfg m clock, ?_, ?_⟩
  · simp
  · change (sampleStep cfg _).1.fs ≠ _
    rw [sampleStep_fs]
    exact fetchStep_fs (c := shiftPipe c) h cfg m _

/-- A cycle that completes does not start in the unreachable fetch state. -/
theorem fs_of_vicCycle {cfg : Config} {m : List Host.Cell} {clock : Nat} {c : Vic} {o : Vic × ClockOut}
    (h : vicCycle cfg m clock c = .next o) : c.fs ≠ .inMatrixX := by
  intro e; simp [vicCycle, e] at h

/-! ## The chip's invariant -/

theorem fetchCase_columns {cfg : Config} {m : List Host.Cell} {d : Byte} {c : Vic}
    (h : c.fs = .screenCode ∨ c.fs = .charData → c.colsLeft ≠ 0#7) :
    (fetchCase cfg m d c).fs = .screenCode ∨ (fetchCase cfg m d c).fs = .charData →
      (fetchCase cfg m d c).colsLeft ≠ 0#7 := by
  unfold fetchCase startMatrixLine
  repeat' split
  all_goals simp_all

theorem fetchCase_rows {cfg : Config} {m : List Host.Cell} {d : Byte} {c : Vic}
    (h : c.fs ≠ .outsideMatrix → c.fs ≠ .matrixLine → c.rowsLeft ≠ 0#6) :
    (fetchCase cfg m d c).fs ≠ .outsideMatrix → (fetchCase cfg m d c).fs ≠ .matrixLine →
      (fetchCase cfg m d c).rowsLeft ≠ 0#6 := by
  unfold fetchCase startMatrixLine
  repeat' split
  all_goals simp_all

@[simp] theorem fetchCase_raster (cfg : Config) (m : List Host.Cell) (d : Byte) (c : Vic) :
    (fetchCase cfg m d c).h = c.h ∧ (fetchCase cfg m d c).v = c.v ∧ (fetchCase cfg m d c).vPend = c.vPend ∧
      (fetchCase cfg m d c).apre = c.apre ∧ (fetchCase cfg m d c).sacc = c.sacc ∧
      (fetchCase cfg m d c).lfsr = c.lfsr := by
  unfold fetchCase startMatrixLine; repeat' split
  all_goals exact ⟨rfl, rfl, rfl, rfl, rfl, rfl⟩

/-- The noise register never becomes zero: the only value whose shift is zero feeds back a one (R443). -/
theorem lfsrStep_ne_zero {l : BitVec 16} (h : l ≠ 0#16) : lfsrStep l ≠ 0#16 := by
  intro e
  unfold lfsrStep at e
  have hs : l <<< 1 = 0#16 := by
    apply BitVec.eq_of_getLsbD_eq
    intro i hi
    have := congrArg (fun x : BitVec 16 => x.getLsbD i) e
    simp only [BitVec.getLsbD_or, BitVec.getLsbD_zero, Bool.or_eq_false_iff] at this
    simpa using this.1
  have h15 : l = 0x8000#16 := by
    have : l.toNat * 2 % 65536 = 0 := by
      have := congrArg BitVec.toNat hs
      simpa [BitVec.toNat_shiftLeft, Nat.shiftLeft_eq] using this
    have h0 : l.toNat ≠ 0 := fun e0 => h (BitVec.eq_of_toNat_eq (by simpa using e0))
    have hl := l.isLt
    apply BitVec.eq_of_toNat_eq
    simp only [BitVec.toNat_ofNat]
    omega
  subst h15
  exact absurd e (by decide)

theorem noiseClock_lfsr {f : BitVec 7} {l : BitVec 16} {w : Voice} (h : l ≠ 0#16) :
    (noiseClock f l w).2 ≠ 0#16 := by
  unfold noiseClock
  split
  · simp only []
    split
    · exact lfsrStep_ne_zero h
    · exact h
  · exact h

theorem voicesStep_lfsr {cfg : Config} {c : Vic} (h : c.lfsr ≠ 0#16) : (voicesStep cfg c).lfsr ≠ 0#16 := by
  unfold voicesStep
  simp only []
  split
  · exact noiseClock_lfsr h
  · exact h

/-- A cycle keeps the chip's invariant, for a well-formed configuration. -/
theorem vicCycle_legal {cfg : Config} {m : List Host.Cell} {clock : Nat} {c : Vic} {o : Vic × ClockOut}
    (hcfg : cfg.wf = true) (hc : c.Legal cfg) (ho : vicCycle cfg m clock c = .next o) : o.1.Legal cfg := by
  rw [vicCycle_eq hc.fs] at ho
  injection ho with ho
  subst ho
  simp only [Config.wf, Timing.wf, Timing.cyclesFit, Config.visibleFits, Config.voiceUnitPositive, Bool.and_eq_true,
    decide_eq_true_eq] at hcfg
  have hH := hcfg.1.1.1.1.1.2.2
  have hV := hcfg.1.1.1.2
  have hU := hcfg.1.1.2
  have hr := fetchCase_raster cfg m (Config.videoAbsentRead clock) (shiftPipe c)
  have hfs : ∀ x, (rasterStep cfg (sampleStep cfg x).1).fs = x.fs := fun x => sampleStep_fs cfg x
  have hcols : ∀ x, (rasterStep cfg (sampleStep cfg x).1).colsLeft = x.colsLeft := by
    intro x; unfold sampleStep; simp only []; split <;> rfl
  have hrows : ∀ x, (rasterStep cfg (sampleStep cfg x).1).rowsLeft = x.rowsLeft := by
    intro x; unfold sampleStep; simp only []; split <;> rfl
  have hh : ∀ x, (sampleStep cfg x).1.h = x.h ∧ (sampleStep cfg x).1.v = x.v ∧ (sampleStep cfg x).1.vPend = x.vPend ∧
      (sampleStep cfg x).1.apre = x.apre ∧ (sampleStep cfg x).1.lfsr = x.lfsr := by
    intro x; unfold sampleStep; simp only []; split <;> exact ⟨rfl, rfl, rfl, rfl, rfl⟩
  generalize hg : fetchStep cfg m (Config.videoAbsentRead clock) (shiftPipe c) = g
  have hgf : g.fs = (fetchCase cfg m (Config.videoAbsentRead clock) (shiftPipe c)).fs ∧
      g.colsLeft = (fetchCase cfg m (Config.videoAbsentRead clock) (shiftPipe c)).colsLeft ∧
      g.rowsLeft = (fetchCase cfg m (Config.videoAbsentRead clock) (shiftPipe c)).rowsLeft ∧
      g.h = c.h ∧ g.v = c.v ∧ g.vPend = c.vPend ∧ g.sacc = c.sacc ∧ g.lfsr = c.lfsr := by
    rw [← hg]; unfold fetchStep; simp only []
    split <;> exact ⟨rfl, rfl, rfl, hr.1, hr.2.1, hr.2.2.1, hr.2.2.2.2.1, hr.2.2.2.2.2⟩
  obtain ⟨e1, e2, e3, e4, e5, e6, e7, e8⟩ := hgf
  have s := hh (voicesStep cfg g)
  constructor
  · change (if (sampleStep cfg (voicesStep cfg g)).1.h == cfg.timing.lineCycles - 1 then 0
      else (sampleStep cfg (voicesStep cfg g)).1.h + 1) < _
    rw [s.1]
    change (if g.h == _ then 0 else g.h + 1) < _
    rw [e4]
    have := hc.h
    split
    · omega
    · rename_i hne; simp only [beq_iff_eq] at hne; omega
  · change nextV cfg (sampleStep cfg (voicesStep cfg g)).1 < _
    unfold nextV
    rw [s.2.2.1, s.2.1]
    change (if g.vPend then (g.v + 1) % _ else g.v) < _
    rw [e6, e5]
    split
    · exact Nat.mod_lt _ (by omega)
    · exact hc.v
  · change ((sampleStep cfg (voicesStep cfg g)).1.h == cfg.timing.lineCycles - 1) = true →
      (if (sampleStep cfg (voicesStep cfg g)).1.h == cfg.timing.lineCycles - 1 then 0
        else (sampleStep cfg (voicesStep cfg g)).1.h + 1) = 0
    intro hp; rw [if_pos hp]
  · rw [hfs]
    change g.fs ≠ _
    rw [e1]
    exact fetchCase_fs (c := shiftPipe c) hc.fs cfg m _
  · rw [hfs, hcols]
    change g.fs = _ ∨ g.fs = _ → g.colsLeft ≠ _
    rw [e1, e2]
    exact fetchCase_columns (c := shiftPipe c) hc.columns
  · rw [hfs, hrows]
    change g.fs ≠ _ → g.fs ≠ _ → g.rowsLeft ≠ _
    rw [e1, e3]
    exact fetchCase_rows (c := shiftPipe c) hc.rows
  · change (sampleStep cfg (voicesStep cfg g)).1.apre < _
    rw [s.2.2.2.1]
    exact Nat.mod_lt _ (by omega)
  · intro hle
    change (sampleStep cfg (voicesStep cfg g)).1.sacc < _
    have hs := hc.sacc hle
    have : (voicesStep cfg g).sacc = c.sacc := e7
    unfold sampleStep
    simp only []
    rw [this]
    split
    · change c.sacc + cfg.sampleRate - cfg.timing.clockHz < _; omega
    · change c.sacc + cfg.sampleRate < _; omega
  · change (sampleStep cfg (voicesStep cfg g)).1.lfsr ≠ _
    rw [s.2.2.2.2]
    exact voicesStep_lfsr (by rw [e8]; exact hc.lfsr)

end Sys2Proof.Machine
end

