-- ==== Sys2Proof/Laws/Bus.lean ====
section
/-! SUPPORT. Outcomes in sequence, and everything a bus read, a fetch and a write can do (R80 to R88). -/

namespace Sys2Proof.Machine

variable {σ τ : Type}

@[simp] theorem andThen_next (x : σ) (k : σ → Result τ) : andThen (.next x) k = k x := rfl

@[simp] theorem andThen_refused (e : Refusal) (k : σ → Result τ) : andThen (.refused e) k = .refused e := rfl

@[simp] theorem andThen_fault (e : Fault) (k : σ → Result τ) : andThen (.fault e) k = .fault e := rfl

/-- Two outcomes in sequence end in a next value exactly when both do. -/
theorem andThen_eq_next {o : Result σ} {k : σ → Result τ} {y : τ} :
    andThen o k = .next y ↔ ∃ x, o = .next x ∧ k x = .next y := by
  cases o <;> simp [andThen]

theorem andThen_assoc {υ : Type} (o : Result σ) (k : σ → Result τ) (l : τ → Result υ) :
    andThen (andThen o k) l = andThen o fun x => andThen (k x) l := by
  cases o <;> rfl

/-- A memory cell is no chip register, no colour cell and no mirror. -/
theorem accessible_of_isMemory {cfg : Config} {a : Word} (h : isMemory cfg a = true) : Accessible cfg a := by
  intro e; simp [isMemory, e] at h

theorem writeAllowed_accessible {cfg : Config} {a : Word} {v : Byte} (h : WriteAllowed cfg a v) : Accessible cfg a := by
  intro e; simp [WriteAllowed, e] at h

theorem nibble_append : ∀ x y : BitVec 4, (x ++ y : BitVec 8).extractLsb' 0 4 = y := by decide

/-- Everything a bus read of an accessible address can do (R80, R83): it gives a byte the address can give, changes no
programmed register and leaves the byte in the latch. -/
theorem busRead_spec {a : Word} {s : State} (h : Accessible s.cfg a) :
    ∃ v A B, busRead a s = .next (v, ((s.withViaA A).withViaB B).withLatch v) ∧
      A.programmed = s.viaA.programmed ∧ B.programmed = s.viaB.programmed ∧ ReadsByte s a v := by
  unfold busRead readDone
  split <;> rename_i hr
  · refine ⟨_, s.viaA, s.viaB, rfl, rfl, rfl, ?_⟩
    simp only [ReadsByte, isMemory, storedRegister, hr]
    refine ⟨by simp, by simp, ?_⟩
    intro v hv
    unfold storedVicRegister at hv
    unfold vicRead
    split at hv <;> simp_all
  · refine ⟨_, _, s.viaB, rfl, viaRead_programmed .., rfl, ?_⟩
    simp only [ReadsByte, isMemory, storedRegister, hr]
    exact ⟨by simp, by simp, fun v hv => viaRead_stored _ hv⟩
  · refine ⟨_, s.viaA, _, rfl, rfl, viaRead_programmed .., ?_⟩
    simp only [ReadsByte, isMemory, storedRegister, hr]
    exact ⟨by simp, by simp, fun v hv => viaRead_stored _ hv⟩
  · refine ⟨_, s.viaA, s.viaB, rfl, rfl, rfl, ?_⟩
    simp [ReadsByte, isMemory, storedRegister, hr]
  · refine ⟨_, s.viaA, s.viaB, rfl, rfl, rfl, ?_⟩
    simp [ReadsByte, isMemory, storedRegister, hr]
  · refine ⟨_, s.viaA, s.viaB, rfl, rfl, rfl, ?_⟩
    simp only [ReadsByte, isMemory, storedRegister, hr]
    refine ⟨by simp, ?_, by simp⟩
    exact fun _ => nibble_append _ _
  · refine ⟨_, s.viaA, s.viaB, rfl, rfl, rfl, ?_⟩
    simp [ReadsByte, isMemory, storedRegister, hr]
  · exact absurd hr h

/-- Everything a read at `PC` of an accessible address can do (R84). -/
theorem busFetch_spec {a : Word} {s : State} (h : Accessible s.cfg a) :
    ∃ v A B l, busFetch a s = .next (v, ((s.withViaA A).withViaB B).withLatch l) ∧
      A.programmed = s.viaA.programmed ∧ B.programmed = s.viaB.programmed ∧ ReadsByte s a v ∧
      (isMemory s.cfg a = true → l = if s.cfg.latchOnFetch then cell s.mem a else s.latch) ∧
      (isMemory s.cfg a = false → l = v) := by
  unfold busFetch
  split <;> rename_i hf
  · simp only [Bool.and_eq_true, Bool.not_eq_true'] at hf
    refine ⟨cell s.mem a, s.viaA, s.viaB, s.latch, rfl, rfl, rfl, ?_, ?_, ?_⟩
    · have hm := hf.1
      unfold isMemory at hm
      refine ⟨fun _ => rfl, ?_, ?_⟩ <;> split at hm <;> simp_all [storedRegister]
    · simp [hf.2]
    · simp [hf.1]
  · obtain ⟨v, A, B, e, hA, hB, hv⟩ := busRead_spec h
    refine ⟨v, A, B, v, e, hA, hB, hv, ?_, fun _ => rfl⟩
    intro hm
    simp only [hm, Bool.true_and, Bool.not_eq_true, Bool.not_eq_false'] at hf
    rw [if_pos hf]
    exact hv.1 hm

/-- Everything an allowed bus write can do (R81, R83, R88, R92): the cell or the chip that owns the address takes the byte, and
the latch holds it. -/
theorem busWrite_spec {a : Word} {v : Byte} {s : State} (h : WriteAllowed s.cfg a v) :
    ∃ g A B, busWrite a v s =
        .next (((((s.withVic g).withViaA A).withViaB B).withMem (storeByte s.cfg s.mem a v)).withLatch v) ∧
      g.reg = (if region s.cfg a = .vic then vicRegWrite (registerIndex a) v s.vic.reg else s.vic.reg) ∧
      g.fs = s.vic.fs ∧
      ViaWritten (registerIndex a) (if region s.cfg a = .viaA then [v] else []) s.viaA A.programmed ∧
      ViaWritten (registerIndex a) (if region s.cfg a = .viaB then [v] else []) s.viaB B.programmed := by
  unfold WriteAllowed at h
  unfold busWrite
  split <;> rename_i hr <;> simp only [hr] at h
  · have hw : vicWrite (registerIndex a) v s.vic = .next { s.vic with reg := vicRegWrite (registerIndex a) v s.vic.reg } := by
      unfold vicWrite
      rw [if_neg]
      simpa using h
    rw [hw]
    exact ⟨{ s.vic with reg := vicRegWrite (registerIndex a) v s.vic.reg }, s.viaA, s.viaB,
      by simp only [andThen_next, storeByte, hr]; rfl, by simp [hr], rfl, by simp [hr, ViaWritten],
      by simp [hr, ViaWritten]⟩
  · obtain ⟨c', hc⟩ := viaWrite_next h s.viaA
    rw [hc]
    exact ⟨s.vic, c', s.viaB, by simp only [andThen_next, storeByte, hr]; rfl, by simp [hr], rfl,
      by simp [hr, ViaWritten, hc], by simp [hr, ViaWritten]⟩
  · obtain ⟨c', hc⟩ := viaWrite_next h s.viaB
    rw [hc]
    exact ⟨s.vic, s.viaA, c', by simp only [andThen_next, storeByte, hr]; rfl, by simp [hr], rfl,
      by simp [hr, ViaWritten], by simp [hr, ViaWritten, hc]⟩
  all_goals exact ⟨s.vic, s.viaA, s.viaB, rfl, by simp [hr], rfl, by simp [hr, ViaWritten],
    by simp [hr, ViaWritten]⟩

/-- Reading a cell after a write that reaches memory (R81, R88, R92). -/
theorem cell_storeByte {s : State} (hm : Memory.wf s.mem = true) (a : Word) (v : Byte) (b : Word) :
    cell (storeByte s.cfg s.mem a v) b = if b = a then cellAfterWrite s a v else cell s.mem b := by
  unfold storeByte cellAfterWrite
  cases region s.cfg a <;> simp only [cell_memPut hm] <;> split <;> simp_all

/-- A write keeps the canonical form of memory. -/
theorem Memory.wf_storeByte {cfg : Config} {m : List Host.Cell} (hm : Memory.wf m = true) (a : Word) (v : Byte) :
    Memory.wf (storeByte cfg m a v) = true := by
  unfold storeByte
  split
  · exact Memory.wf_memPut hm v a.isLt
  · exact Memory.wf_memPut hm _ a.isLt
  · exact hm

end Sys2Proof.Machine
end

