-- ==== Sys2Proof/Laws/Ops.lean ====
section
/-! SUPPORT. Everything one clock, an operand's address cycles, an operand access, a push and a pull can do: the lemmas that
proofs cite instead of unfolding the operations. -/

namespace Sys2Proof.Machine

/-! ## The fields under the named operations -/

@[simp] theorem sampleInputs_cfg (s : State) : (sampleInputs s).cfg = s.cfg := by simp [sampleInputs]

@[simp] theorem sampleInputs_run (s : State) : (sampleInputs s).run = s.run := by simp [sampleInputs]

@[simp] theorem sampleInputs_regs (s : State) : (sampleInputs s).regs = s.regs := by simp [sampleInputs]

@[simp] theorem sampleInputs_nmiPrev (s : State) : (sampleInputs s).nmiPrev = s.nmiPrev := by simp [sampleInputs]

@[simp] theorem sampleInputs_nmiPending (s : State) : (sampleInputs s).nmiPending = s.nmiPending := by simp [sampleInputs]

@[simp] theorem sampleInputs_seq (s : State) : (sampleInputs s).seq = s.seq := by simp [sampleInputs]

@[simp] theorem sampleInputs_mem (s : State) : (sampleInputs s).mem = s.mem := by simp [sampleInputs]

@[simp] theorem sampleInputs_latch (s : State) : (sampleInputs s).latch = s.latch := by simp [sampleInputs]

@[simp] theorem sampleInputs_viaA (s : State) : (sampleInputs s).viaA = s.viaA := by simp [sampleInputs]

@[simp] theorem sampleInputs_viaB (s : State) : (sampleInputs s).viaB = s.viaB := by simp [sampleInputs]

@[simp] theorem sampleInputs_vic (s : State) : (sampleInputs s).vic = s.vic := by simp [sampleInputs]

@[simp] theorem sampleInputs_inp (s : State) : (sampleInputs s).inp = nextInputs s := by simp [sampleInputs]

@[simp] theorem sampleInputs_inputs (s : State) : (sampleInputs s).inputs = s.inputs.tail := by simp [sampleInputs]

@[simp] theorem sampleInputs_clock (s : State) : (sampleInputs s).clock = s.clock := by simp [sampleInputs]

@[simp] theorem sampleInputs_sink (s : State) : (sampleInputs s).sink = s.sink := by simp [sampleInputs]

@[simp] theorem sampleNmi_cfg (s : State) : (sampleNmi s).cfg = s.cfg := by simp [sampleNmi]

@[simp] theorem sampleNmi_run (s : State) : (sampleNmi s).run = s.run := by simp [sampleNmi]

@[simp] theorem sampleNmi_regs (s : State) : (sampleNmi s).regs = s.regs := by simp [sampleNmi]

@[simp] theorem sampleNmi_nmiPrev (s : State) : (sampleNmi s).nmiPrev = s.inp.nmi := by simp [sampleNmi]

@[simp] theorem sampleNmi_nmiPending (s : State) : (sampleNmi s).nmiPending = (s.nmiPending || (s.inp.nmi && !s.nmiPrev)) := by simp [sampleNmi]

@[simp] theorem sampleNmi_seq (s : State) : (sampleNmi s).seq = s.seq := by simp [sampleNmi]

@[simp] theorem sampleNmi_mem (s : State) : (sampleNmi s).mem = s.mem := by simp [sampleNmi]

@[simp] theorem sampleNmi_latch (s : State) : (sampleNmi s).latch = s.latch := by simp [sampleNmi]

@[simp] theorem sampleNmi_viaA (s : State) : (sampleNmi s).viaA = s.viaA := by simp [sampleNmi]

@[simp] theorem sampleNmi_viaB (s : State) : (sampleNmi s).viaB = s.viaB := by simp [sampleNmi]

@[simp] theorem sampleNmi_vic (s : State) : (sampleNmi s).vic = s.vic := by simp [sampleNmi]

@[simp] theorem sampleNmi_inp (s : State) : (sampleNmi s).inp = s.inp := by simp [sampleNmi]

@[simp] theorem sampleNmi_inputs (s : State) : (sampleNmi s).inputs = s.inputs := by simp [sampleNmi]

@[simp] theorem sampleNmi_clock (s : State) : (sampleNmi s).clock = s.clock := by simp [sampleNmi]

@[simp] theorem sampleNmi_sink (s : State) : (sampleNmi s).sink = s.sink := by simp [sampleNmi]

@[simp] theorem timersPhase_cfg (s : State) : (timersPhase s).cfg = s.cfg := by simp [timersPhase]

@[simp] theorem timersPhase_run (s : State) : (timersPhase s).run = s.run := by simp [timersPhase]

@[simp] theorem timersPhase_regs (s : State) : (timersPhase s).regs = s.regs := by simp [timersPhase]

@[simp] theorem timersPhase_nmiPrev (s : State) : (timersPhase s).nmiPrev = s.nmiPrev := by simp [timersPhase]

@[simp] theorem timersPhase_nmiPending (s : State) : (timersPhase s).nmiPending = s.nmiPending := by simp [timersPhase]

@[simp] theorem timersPhase_seq (s : State) : (timersPhase s).seq = s.seq := by simp [timersPhase]

@[simp] theorem timersPhase_mem (s : State) : (timersPhase s).mem = s.mem := by simp [timersPhase]

@[simp] theorem timersPhase_latch (s : State) : (timersPhase s).latch = s.latch := by simp [timersPhase]

@[simp] theorem timersPhase_viaA (s : State) : (timersPhase s).viaA = viaCycle s.inp.a s.viaA := by simp [timersPhase]

@[simp] theorem timersPhase_viaB (s : State) : (timersPhase s).viaB = viaCycle s.inp.b s.viaB := by simp [timersPhase]

@[simp] theorem timersPhase_vic (s : State) : (timersPhase s).vic = s.vic := by simp [timersPhase]

@[simp] theorem timersPhase_inp (s : State) : (timersPhase s).inp = s.inp := by simp [timersPhase]

@[simp] theorem timersPhase_inputs (s : State) : (timersPhase s).inputs = s.inputs := by simp [timersPhase]

@[simp] theorem timersPhase_clock (s : State) : (timersPhase s).clock = s.clock + 1 := by simp [timersPhase]

@[simp] theorem timersPhase_sink (s : State) : (timersPhase s).sink = s.sink := by simp [timersPhase]

/-! ## Inputs and the NMI latch -/

/-- Two states with the same inputs and the same NMI latch. -/
structure SameInputs (s t : State) : Prop where
  inp : s.inp = t.inp
  inputs : s.inputs = t.inputs
  nmiPrev : s.nmiPrev = t.nmiPrev
  nmiPending : s.nmiPending = t.nmiPending

theorem SameInputs.sample {s t : State} (h : SameInputs s t) :
    SameInputs (sampleNmi (sampleInputs s)) (sampleNmi (sampleInputs t)) := by
  obtain ⟨h1, h2, h3, h4⟩ := h
  constructor <;> simp [nextInputs, h1, h2, h3, h4]

theorem inputsAfter_congr : ∀ (n : Nat) {s t : State}, SameInputs s t → SameInputs (inputsAfter n s) (inputsAfter n t)
  | 0, _, _, h => h
  | n + 1, _, _, h => inputsAfter_congr n h.sample

theorem inputsAfter_add : ∀ (n m : Nat) (s : State), inputsAfter (n + m) s = inputsAfter m (inputsAfter n s)
  | 0, m, s => by rw [Nat.zero_add]; rfl
  | n + 1, m, s => by rw [Nat.add_right_comm]; exact inputsAfter_add n m _

/-- The sampled inputs and the line's previous level do not depend on the pending latch. -/
theorem inputsAfter_lines : ∀ (n : Nat) {s t : State}, s.inp = t.inp → s.inputs = t.inputs → s.nmiPrev = t.nmiPrev →
    (inputsAfter n s).inp = (inputsAfter n t).inp ∧ (inputsAfter n s).inputs = (inputsAfter n t).inputs ∧
      (inputsAfter n s).nmiPrev = (inputsAfter n t).nmiPrev
  | 0, _, _, h1, h2, h3 => ⟨h1, h2, h3⟩
  | n + 1, _, _, h1, h2, _ => inputsAfter_lines n (by simp [nextInputs, h1, h2]) (by simp [h2]) (by simp [nextInputs, h1, h2])

/-! ## What clocks leave, in sequence -/

theorem Ran.refl (s : State) : Ran 0 s s := ⟨rfl, rfl, rfl, rfl, rfl, rfl, rfl, rfl, rfl⟩

theorem Kept.same {n : Nat} {s t : State} (h : Kept n s t) : SameInputs t (inputsAfter n s) :=
  ⟨h.ran.inp, h.ran.inputs, h.ran.nmiPrev, h.nmiPending⟩

theorem Ran.trans {n m : Nat} {s t u : State} (h : Ran n s t) (k : Ran m t u) : Ran (n + m) s u where
  cfg := k.cfg.trans h.cfg
  run := k.run.trans h.run
  seq := k.seq.trans h.seq
  clock := by rw [k.clock, h.clock, Nat.add_assoc]
  inp := by rw [k.inp, inputsAfter_add]; exact (inputsAfter_lines m h.inp h.inputs h.nmiPrev).1
  inputs := by rw [k.inputs, inputsAfter_add]; exact (inputsAfter_lines m h.inp h.inputs h.nmiPrev).2.1
  nmiPrev := by rw [k.nmiPrev, inputsAfter_add]; exact (inputsAfter_lines m h.inp h.inputs h.nmiPrev).2.2
  sink := by rw [Nat.add_comm, ← List.drop_drop, k.sink, h.sink]
  sinkLength := by rw [k.sinkLength, h.sinkLength, Nat.add_assoc]

theorem Kept.refl (s : State) : Kept 0 s s := ⟨Ran.refl s, rfl⟩

theorem Kept.trans {n m : Nat} {s t u : State} (h : Kept n s t) (k : Kept m t u) : Kept (n + m) s u where
  ran := h.ran.trans k.ran
  nmiPending := by rw [k.nmiPending, inputsAfter_add]; exact (inputsAfter_congr m h.same).nmiPending

theorem ChipsKept.refl (s : State) : ChipsKept s s := ⟨rfl, rfl, rfl⟩

theorem ChipsKept.trans {s t u : State} (h : ChipsKept s t) (k : ChipsKept t u) : ChipsKept s u :=
  ⟨k.vicRegs.trans h.vicRegs, k.viaA.trans h.viaA, k.viaB.trans h.viaB⟩

/-- What clocks that write nothing leave. -/
structure Quiet (n : Nat) (s t : State) : Prop where
  mem : t.mem = s.mem
  ready : Ready t
  chips : ChipsKept s t
  kept : Kept n s t

theorem Quiet.refl {s : State} (h : Ready s) : Quiet 0 s s := ⟨rfl, h, .refl s, .refl s⟩

theorem Quiet.trans {n m : Nat} {s t u : State} (h : Quiet n s t) (k : Quiet m t u) : Quiet (n + m) s u :=
  ⟨k.mem.trans h.mem, k.ready, h.chips.trans k.chips, h.kept.trans k.kept⟩

theorem Quiet.cfg {n : Nat} {s t : State} (h : Quiet n s t) : t.cfg = s.cfg := h.kept.ran.cfg

theorem ran_withRegs {n : Nat} {s t : State} (h : Ran n s t) (r : Regs) : Ran n s (t.withRegs r) :=
  ⟨h.cfg, h.run, h.seq, h.clock, h.inp, h.inputs, h.nmiPrev, h.sink, h.sinkLength⟩

theorem kept_withRegs {n : Nat} {s t : State} (h : Kept n s t) (r : Regs) : Kept n s (t.withRegs r) :=
  ⟨ran_withRegs h.ran r, h.nmiPending⟩

theorem quiet_withRegs {n : Nat} {s t : State} (h : Quiet n s t) (r : Regs) : Quiet n s (t.withRegs r) :=
  ⟨h.mem, h.ready, ⟨h.chips.vicRegs, h.chips.viaA, h.chips.viaB⟩, kept_withRegs h.kept r⟩

/-- The registers alone: nothing else of a state changes. -/
theorem quiet_setRegs {s : State} (h : Ready s) (r : Regs) : Quiet 0 s (s.withRegs r) := quiet_withRegs (.refl h) r

theorem storedRegister_of_quiet {n : Nat} {s t : State} (h : Quiet n s t) (a : Word) :
    storedRegister t a = storedRegister s a := by
  unfold storedRegister
  rw [h.cfg, h.chips.vicRegs]
  split <;> first | rfl | exact storedViaRegister_of_programmed h.chips.viaA _ |
    exact storedViaRegister_of_programmed h.chips.viaB _

/-- A byte that can be read after clocks that write nothing could be read before them. -/
theorem readsByte_of_quiet {n : Nat} {s t : State} (h : Quiet n s t) {a : Word} {m : Byte} (hm : ReadsByte t a m) :
    ReadsByte s a m := by
  unfold ReadsByte at *
  rw [h.cfg, h.mem, storedRegister_of_quiet h] at hm
  exact hm

theorem readsByte_withRegs {s : State} {r : Regs} {a : Word} {m : Byte} (hm : ReadsByte (s.withRegs r) a m) :
    ReadsByte s a m := hm

/-- A memory cell gives its byte. -/
theorem ReadsByte.cell {s : State} {a : Word} {m : Byte} (h : ReadsByte s a m) (hm : isMemory s.cfg a = true) :
    m = Machine.cell s.mem a := h.1 hm

/-! ## One clock -/

/-- The video/audio chip's part of a clock, for a ready state (R420). -/
theorem vicPhase_spec {s : State} (h : Ready s) :
    ∃ c out, vicPhase s = .next ((s.withVic c).emit out) ∧ c.reg = s.vic.reg ∧ c.fs ≠ .inMatrixX := by
  obtain ⟨c, out, e, hr, hf⟩ := vicCycle_spec h s.cfg s.mem s.clock
  exact ⟨c, out, by simp [vicPhase, e], hr, hf⟩

/-- A clock that keeps the NMI latch, as one equation (R470). -/
theorem clock_keep {s : State} (h : Ready s) (b : BusOp) :
    ∃ c out, c.reg = s.vic.reg ∧ c.fs ≠ .inMatrixX ∧ clock b .keep s =
      andThen (busAccess b (sampleNmi (((sampleInputs s).withVic c).emit out)))
        fun o => .next (⟨o.1, false⟩, timersPhase o.2) := by
  obtain ⟨c, out, e, hr, hf⟩ := vicPhase_spec (s := sampleInputs s) h
  exact ⟨c, out, hr, hf, by simp only [clock, e, andThen_next, cpuPhase, actOnNmi, hijacks, andThen_assoc]⟩

theorem storedRegister_of_sample {s : State} {c : Vic} (hr : c.reg = s.vic.reg) (out : ClockOut) (a : Word) :
    storedRegister (sampleNmi (((sampleInputs s).withVic c).emit out)) a = storedRegister s a := by
  simp [storedRegister, hr]

theorem readsByte_of_sample {s : State} {c : Vic} (hr : c.reg = s.vic.reg) {out : ClockOut} {a : Word} {v : Byte}
    (hv : ReadsByte (sampleNmi (((sampleInputs s).withVic c).emit out)) a v) : ReadsByte s a v := by
  unfold ReadsByte at hv ⊢
  rw [storedRegister_of_sample hr] at hv
  simpa using hv

/-- Everything a clock with a read of an accessible address can do. -/
theorem clock_read {s : State} (h : Ready s) {a : Word} (ha : Accessible s.cfg a) :
    ∃ v t, clock (.read a) .keep s = .next (⟨v, false⟩, t) ∧ ReadsByte s a v ∧ t.regs = s.regs ∧ t.latch = v ∧
      Quiet 1 s t := by
  obtain ⟨c, out, hr, hf, e⟩ := clock_keep h (.read a)
  obtain ⟨v, A, B, eb, hA, hB, hv⟩ := busRead_spec (a := a) (s := sampleNmi (((sampleInputs s).withVic c).emit out))
    (by simpa using ha)
  rw [e]
  simp only [busAccess, eb, andThen_next]
  refine ⟨v, _, rfl, readsByte_of_sample hr hv, by simp, by simp, ⟨by simp, by simpa [Ready] using hf, ?_, ?_⟩⟩
  · exact ⟨by simp [hr], by simpa using hA, by simpa using hB⟩
  · exact ⟨by constructor <;> simp [inputsAfter], by simp [inputsAfter]⟩

/-- Everything a clock with a read at `PC` of an accessible address can do (R84). -/
theorem clock_fetch {s : State} (h : Ready s) {a : Word} (ha : Accessible s.cfg a) :
    ∃ v t, clock (.fetch a) .keep s = .next (⟨v, false⟩, t) ∧ ReadsByte s a v ∧ t.regs = s.regs ∧
      (isMemory s.cfg a = true → t.latch = if s.cfg.latchOnFetch then cell s.mem a else s.latch) ∧
      Quiet 1 s t := by
  obtain ⟨c, out, hr, hf, e⟩ := clock_keep h (.fetch a)
  obtain ⟨v, A, B, l, eb, hA, hB, hv, hl, -⟩ :=
    busFetch_spec (a := a) (s := sampleNmi (((sampleInputs s).withVic c).emit out)) (by simpa using ha)
  rw [e]
  simp only [busAccess, eb, andThen_next]
  refine ⟨v, _, rfl, readsByte_of_sample hr hv, by simp, by simpa using hl,
    ⟨by simp, by simpa [Ready] using hf, ?_, ?_⟩⟩
  · exact ⟨by simp [hr], by simpa using hA, by simpa using hB⟩
  · exact ⟨by constructor <;> simp [inputsAfter], by simp [inputsAfter]⟩

/-- Everything a clock without a bus access can do (R500). -/
theorem clock_none {s : State} (h : Ready s) :
    ∃ t, clock .none .keep s = .next (⟨0#8, false⟩, t) ∧ t.regs = s.regs ∧ t.latch = s.latch ∧ Quiet 1 s t := by
  obtain ⟨c, out, hr, hf, e⟩ := clock_keep h .none
  rw [e]
  simp only [busAccess, andThen_next]
  refine ⟨_, rfl, by simp, by simp, ⟨by simp, by simpa [Ready] using hf, ⟨by simp [hr], by simp, by simp⟩, ?_⟩⟩
  exact ⟨by constructor <;> simp [inputsAfter], by simp [inputsAfter]⟩

/-- Everything a clock with an allowed write can do. -/
theorem clock_write {s : State} (h : Ready s) {a : Word} {v : Byte} (ha : WriteAllowed s.cfg a v) :
    ∃ t, clock (.write a v) .keep s = .next (⟨v, false⟩, t) ∧ t.regs = s.regs ∧ t.latch = v ∧
      t.mem = storeByte s.cfg s.mem a v ∧ Ready t ∧ ChipsWritten s t a [v] ∧ Kept 1 s t := by
  obtain ⟨c, out, hr, hf, e⟩ := clock_keep h (.write a v)
  obtain ⟨g, A, B, eb, hg, hgf, hA, hB⟩ :=
    busWrite_spec (a := a) (v := v) (s := sampleNmi (((sampleInputs s).withVic c).emit out)) (by simpa using ha)
  rw [e]
  simp only [busAccess, eb, andThen_next]
  refine ⟨_, rfl, by simp, by simp, by simp, by simpa [Ready, hgf] using hf, ⟨?_, ?_, ?_⟩, ?_⟩
  · simpa [hr] using hg
  · simpa using hA
  · simpa using hB
  · exact ⟨by constructor <;> simp [inputsAfter], by simp [inputsAfter]⟩

end Sys2Proof.Machine
end

