-- ==== Sys2Proof/Laws/Operands.lean ====
section
/-! SUPPORT. Everything a cycle of a script, an operand form's address cycles and an operand access can do. -/

namespace Sys2Proof.Machine

/-! ## Where the processor's own accesses land -/

theorem zext16_toNat (z : Byte) : (zext16 z).toNat = z.toNat := by
  have := z.isLt
  simp only [zext16, BitVec.toNat_setWidth]
  omega

theorem stackAddr_toNat (s : Byte) : (stackAddr s).toNat = 256 + s.toNat := by
  have := s.isLt
  simp only [stackAddr, BitVec.toNat_add, zext16_toNat, BitVec.toNat_ofNat]
  omega

/-- The zero page is RAM in every machine (R90). -/
@[simp] theorem region_zeroPage (cfg : Config) (z : Byte) : region cfg (zext16 z) = .ram := by
  have := z.isLt
  have h := zext16_toNat z
  unfold region
  simp only [h]
  rw [if_pos (by omega)]

/-- The stack's page is RAM in every machine (R28, R90). -/
@[simp] theorem region_stack (cfg : Config) (s : Byte) : region cfg (stackAddr s) = .ram := by
  have := s.isLt
  have h := stackAddr_toNat s
  unfold region
  simp only [h]
  rw [if_pos (by omega)]

/-- `$C000` and above is ROM in every machine (R90). -/
theorem region_rom {cfg : Config} {a : Word} (h : 0xC000 ≤ a.toNat) : region cfg a = .rom := by
  unfold region
  simp only []
  repeat rw [if_neg (by omega)]

@[simp] theorem region_vector (cfg : Config) {a : Word} (h : 0xFFFA ≤ a.toNat) : region cfg a = .rom :=
  region_rom (by omega)

@[simp] theorem isMemory_zeroPage (cfg : Config) (z : Byte) : isMemory cfg (zext16 z) = true := by simp [isMemory]

@[simp] theorem isMemory_stack (cfg : Config) (s : Byte) : isMemory cfg (stackAddr s) = true := by simp [isMemory]

@[simp] theorem accessible_zeroPage (cfg : Config) (z : Byte) : Accessible cfg (zext16 z) := by simp [Accessible]

@[simp] theorem accessible_stack (cfg : Config) (s : Byte) : Accessible cfg (stackAddr s) := by simp [Accessible]

@[simp] theorem writeAllowed_stack (cfg : Config) (s v : Byte) : WriteAllowed cfg (stackAddr s) v := by
  simp [WriteAllowed]

theorem stackAddr_inj {x y : Byte} : stackAddr x = stackAddr y ↔ x = y := by
  constructor
  · intro h
    have := congrArg BitVec.toNat h
    simp only [stackAddr_toNat] at this
    exact BitVec.eq_of_toNat_eq (by omega)
  · exact congrArg _

/-! ## One cycle of a script -/

@[simp] theorem runMicro_done (r : Regs) (s : State) : runMicro (.done r) s = .next (s.withRegs r) := rfl

@[simp] theorem runMicro_refuse (e : Refusal) (s : State) : runMicro (.refuse e) s = .refused e := rfl

theorem runMicro_cycle (r : Regs) (b : BusOp) (act : NmiAct) (next : Obs → Micro) (s : State) :
    runMicro (.cycle r b act next) s = andThen (clock b act (s.withRegs r)) fun o => runMicro (next o.1) o.2 := rfl

theorem sameInputs_withRegs (s : State) (r : Regs) : SameInputs (s.withRegs r) s := ⟨rfl, rfl, rfl, rfl⟩

theorem ran_of_withRegs {n : Nat} {s t : State} {r : Regs} (h : Ran n (s.withRegs r) t) : Ran n s t :=
  ⟨h.cfg, h.run, h.seq, h.clock, h.inp.trans (inputsAfter_congr n (sameInputs_withRegs s r)).inp,
    h.inputs.trans (inputsAfter_congr n (sameInputs_withRegs s r)).inputs,
    h.nmiPrev.trans (inputsAfter_congr n (sameInputs_withRegs s r)).nmiPrev, h.sink, h.sinkLength⟩

theorem kept_of_withRegs {n : Nat} {s t : State} {r : Regs} (h : Kept n (s.withRegs r) t) : Kept n s t where
  ran := ran_of_withRegs h.ran
  nmiPending := h.nmiPending.trans (inputsAfter_congr n (sameInputs_withRegs s r)).nmiPending

theorem quiet_of_withRegs {n : Nat} {s t : State} {r : Regs} (h : Quiet n (s.withRegs r) t) : Quiet n s t :=
  ⟨h.mem, h.ready, ⟨h.chips.vicRegs, h.chips.viaA, h.chips.viaB⟩, kept_of_withRegs h.kept⟩

/-- A script's read cycle: the rest of the script runs on the byte its clock reads, after that clock. -/
theorem runMicro_rd_clock {s : State} (h : Ready s) {a : Word} (ha : Accessible s.cfg a) (r : Regs) :
    ∃ v t, clock (.read a) .keep (s.withRegs r) = .next (⟨v, false⟩, t) ∧
      (∀ next, runMicro (rd r a next) s = runMicro (next v) t) ∧ ReadsByte s a v ∧ t.regs = r ∧ t.latch = v ∧
      Quiet 1 s t := by
  obtain ⟨v, t, e, hv, hr, hl, hq⟩ := clock_read (s := s.withRegs r) h ha
  exact ⟨v, t, e, fun next => by simp [rd, runMicro_cycle, e], hv, hr, hl, quiet_of_withRegs hq⟩

/-- A script's read cycle: the rest of the script runs on the byte read. -/
theorem runMicro_rd {s : State} (h : Ready s) {a : Word} (ha : Accessible s.cfg a) (r : Regs) :
    ∃ v t, (∀ next, runMicro (rd r a next) s = runMicro (next v) t) ∧ ReadsByte s a v ∧ t.regs = r ∧ t.latch = v ∧
      Quiet 1 s t :=
  let ⟨v, t, _, h⟩ := runMicro_rd_clock h ha r
  ⟨v, t, h⟩

/-- The same for a cycle that leaves the registers as they are: its clock is the state's own. -/
theorem runMicro_rd_same {s : State} (h : Ready s) {a : Word} (ha : Accessible s.cfg a) {r : Regs} (hr : s.regs = r) :
    ∃ v t, (∀ rest, readClocks (a :: rest) s = readClocks rest t) ∧ clock (.read a) .keep s = .next (⟨v, false⟩, t) ∧
      (∀ next, runMicro (rd r a next) s = runMicro (next v) t) ∧ ReadsByte s a v ∧ t.regs = r ∧ t.latch = v ∧
      Quiet 1 s t := by
  subst hr
  obtain ⟨v, t, e, h⟩ := runMicro_rd_clock h ha s.regs
  rw [State.withRegs_self] at e
  exact ⟨v, t, fun rest => by rw [readClocks, e]; rfl, e, h⟩

/-- A script's read at `PC`. -/
theorem runMicro_fetchAt {s : State} (h : Ready s) {r : Regs} (ha : Accessible s.cfg r.pc) :
    ∃ v t, (∀ next, runMicro (fetchAt r next) s = runMicro (next v) t) ∧ ReadsByte s r.pc v ∧ t.regs = r ∧
      (isMemory s.cfg r.pc = true → t.latch = if s.cfg.latchOnFetch then cell s.mem r.pc else s.latch) ∧
      Quiet 1 s t := by
  obtain ⟨v, t, e, hv, hr, hl, hq⟩ := clock_fetch (s := s.withRegs r) h ha
  exact ⟨v, t, fun next => by simp [fetchAt, runMicro_cycle, e], hv, hr, hl, quiet_of_withRegs hq⟩

/-- A script's write cycle: its clock, and the rest of the script after it. -/
theorem runMicro_wr_clock {s : State} (h : Ready s) {a : Word} {v : Byte} (ha : WriteAllowed s.cfg a v) (r : Regs) :
    ∃ t, clock (.write a v) .keep (s.withRegs r) = .next (⟨v, false⟩, t) ∧
      (∀ next, runMicro (wr r a v next) s = runMicro next t) ∧ t.regs = r ∧ t.latch = v ∧
      t.mem = storeByte s.cfg s.mem a v ∧ Ready t ∧ ChipsWritten s t a [v] ∧ Kept 1 s t := by
  obtain ⟨t, e, hr, hl, hm, hre, hc, hk⟩ := clock_write (s := s.withRegs r) h ha
  exact ⟨t, e, fun next => by simp [wr, runMicro_cycle, e], hr, hl, hm, hre, hc, kept_of_withRegs hk⟩

/-- A script's write cycle. -/
theorem runMicro_wr {s : State} (h : Ready s) {a : Word} {v : Byte} (ha : WriteAllowed s.cfg a v) (r : Regs) :
    ∃ t, (∀ next, runMicro (wr r a v next) s = runMicro next t) ∧ t.regs = r ∧ t.latch = v ∧
      t.mem = storeByte s.cfg s.mem a v ∧ Ready t ∧ ChipsWritten s t a [v] ∧ Kept 1 s t :=
  let ⟨t, _, h⟩ := runMicro_wr_clock h ha r
  ⟨t, h⟩

/-- The same for a cycle that leaves the registers as they are. -/
theorem runMicro_wr_same {s : State} (h : Ready s) {a : Word} {v : Byte} (ha : WriteAllowed s.cfg a v) {r : Regs}
    (hr : s.regs = r) :
    ∃ t, clock (.write a v) .keep s = .next (⟨v, false⟩, t) ∧
      (∀ next, runMicro (wr r a v next) s = runMicro next t) ∧ t.regs = r ∧ t.latch = v ∧
      t.mem = storeByte s.cfg s.mem a v ∧ Ready t ∧ ChipsWritten s t a [v] ∧ Kept 1 s t := by
  subst hr
  obtain ⟨t, e, h⟩ := runMicro_wr_clock h ha s.regs
  rw [State.withRegs_self] at e
  exact ⟨t, e, h⟩

/-! ## Address cycles (R523, R525, R526) -/

/-- The end of an indexed address: the dummy read where it is made, and the address. -/
theorem indexedCycles_spec {s : State} (h : Ready s) {r : Regs} (hr : s.regs = r) {base : Word} {i : Byte} {always : Bool}
    (hd : ∀ a ∈ dummyReads always base i, Accessible s.cfg a) :
    ∃ t, readClocks (dummyReads always base i) s = .next t ∧
      (∀ next, runMicro (indexedCycles base i always r next) s = runMicro (next (indexed base i)) t) ∧ t.regs = r ∧
      Quiet (dummyReads always base i).length s t := by
  by_cases hc : (always || pageCrossed base (indexed base i)) = true
  · simp only [dummyReads, if_pos hc] at hd ⊢
    obtain ⟨v, t, e, -, e', -, hr', -, hq⟩ := runMicro_rd_same h (hd _ (List.mem_singleton.mpr rfl)) hr
    exact ⟨t, e [], fun next => by rw [indexedCycles, if_pos hc, e'], hr', hq⟩
  · simp only [dummyReads, if_neg hc]
    exact ⟨s, rfl, fun next => by rw [indexedCycles, if_neg hc], hr, .refl h⟩

/-- Everything the address cycles of an operand form can do: they are its read clocks, give the effective address and write
nothing. -/
theorem addressCycles_spec {s : State} (h : Ready s) {always : Bool} {o : Operand} (hd : DummyAllowed always o s) :
    ∃ t, readClocks (addressReads always o s) s = .next t ∧
      (∀ next, runMicro (addressCycles o always s.regs next) s = runMicro (next (targetOf o s)) t) ∧
      t.regs = s.regs ∧ Quiet (addressClocks always o s) s t := by
  cases o with
  | zp z => exact ⟨s, rfl, fun _ => rfl, rfl, .refl h⟩
  | abs a => exact ⟨s, rfl, fun _ => rfl, rfl, .refl h⟩
  | zpx z =>
    obtain ⟨v, t, c, -, e, -, hr, -, hq⟩ := runMicro_rd_same h (accessible_zeroPage s.cfg z) rfl
    exact ⟨t, c [], fun next => e fun _ => next (targetOf (.zpx z) s), hr, hq⟩
  | zpy z =>
    obtain ⟨v, t, c, -, e, -, hr, -, hq⟩ := runMicro_rd_same h (accessible_zeroPage s.cfg z) rfl
    exact ⟨t, c [], fun next => e fun _ => next (targetOf (.zpy z) s), hr, hq⟩
  | abx a => exact indexedCycles_spec h rfl hd
  | aby a => exact indexedCycles_spec h rfl hd
  | izx z =>
    obtain ⟨v, t, c, -, e, -, hr, -, hq⟩ := runMicro_rd_same h (accessible_zeroPage s.cfg z) rfl
    obtain ⟨lo, t2, c2, -, e2, hlo, hr2, -, hq2⟩ :=
      runMicro_rd_same hq.ready (accessible_zeroPage t.cfg (z + s.regs.x)) hr
    obtain ⟨hi, t3, c3, -, e3, hhi, hr3, -, hq3⟩ :=
      runMicro_rd_same hq2.ready (accessible_zeroPage t2.cfg (z + s.regs.x + 1)) hr2
    have elo : lo = cell s.mem (zext16 (z + s.regs.x)) := (readsByte_of_quiet hq hlo).cell (by simp)
    have ehi : hi = cell s.mem (zext16 (z + s.regs.x + 1)) := (readsByte_of_quiet (hq.trans hq2) hhi).cell (by simp)
    refine ⟨t3, by rw [addressReads, c, c2, c3, readClocks], fun next => ?_, hr3, (hq.trans hq2).trans hq3⟩
    simp only [addressCycles, targetOf, effectiveAddress, e, e2, e3, elo, ehi]
  | izy z =>
    obtain ⟨lo, t, c, -, e, hlo, hr, -, hq⟩ := runMicro_rd_same h (accessible_zeroPage s.cfg z) rfl
    obtain ⟨hi, t2, c2, -, e2, hhi, hr2, -, hq2⟩ := runMicro_rd_same hq.ready (accessible_zeroPage t.cfg (z + 1)) hr
    have elo : lo = cell s.mem (zext16 z) := hlo.cell (by simp)
    have ehi : hi = cell s.mem (zext16 (z + 1)) := (readsByte_of_quiet hq hhi).cell (by simp)
    have hq12 := hq.trans hq2
    obtain ⟨t3, c3, e3, hr3, hq3⟩ := indexedCycles_spec (base := wordOf hi lo) (i := s.regs.y) (always := always)
      hq2.ready hr2 (fun a ha => by
        rw [hq12.cfg]
        rw [elo, ehi] at ha
        exact hd a (List.mem_append_right _ ha))
    rw [elo, ehi] at c3 e3 hq3
    refine ⟨t3, ?_, fun next => ?_, hr3, ?_⟩
    · simp only [addressReads, List.cons_append, List.nil_append, c, c2, c3]
    · simp only [addressCycles, e, e2, e3, targetOf, effectiveAddress, elo, ehi]
    · simp only [addressClocks, addressReads, List.length_append, List.length_cons, List.length_nil]
      exact hq12.trans hq3

/-! ## Operand accesses -/

/-- Everything an instruction that reads its operand byte can do (R14, R523, R525). -/
theorem readOperand_spec {s : State} (h : Ready s) {o : Operand} (hd : DummyAllowed false o s)
    (ha : Accessible s.cfg (targetOf o s)) :
    ∃ t m, ReadAfter (addressReads false o s) (targetOf o s) s m t ∧
      (∀ f, runMicro (readOperand o s.regs f) s = .next (t.withRegs (f m))) ∧ ReadsByte s (targetOf o s) m ∧
      t.latch = m ∧ Quiet (addressClocks false o s + 1) s t := by
  obtain ⟨t, c, e, hr, hq⟩ := addressCycles_spec h hd
  obtain ⟨m, u, -, c2, e2, hm, -, hl, hq2⟩ :=
    runMicro_rd_same hq.ready (a := targetOf o s) (by rw [hq.cfg]; exact ha) hr
  exact ⟨u, m, ⟨t, _, c, c2, rfl⟩, fun f => by rw [readOperand, e, e2]; rfl, readsByte_of_quiet hq hm, hl, hq.trans hq2⟩

theorem chipsWritten_of_quiet {n : Nat} {s t u : State} (h : Quiet n s t) {a : Word} {vs : List Byte}
    (hc : ChipsWritten t u a vs) : ChipsWritten s u a vs := by
  obtain ⟨h1, h2, h3⟩ := hc
  rw [h.cfg] at h1 h2 h3
  rw [h.chips.vicRegs] at h1
  exact ⟨h1, h2.of_programmed h.chips.viaA, h3.of_programmed h.chips.viaB⟩

theorem ChipsWritten.append {s t u : State} {a : Word} {vs ws : List Byte} (hcfg : t.cfg = s.cfg)
    (h : ChipsWritten s t a vs) (k : ChipsWritten t u a ws) : ChipsWritten s u a (vs ++ ws) := by
  obtain ⟨h1, h2, h3⟩ := h
  obtain ⟨k1, k2, k3⟩ := k
  rw [hcfg] at k1 k2 k3
  refine ⟨?_, ?_, ?_⟩
  · rw [k1, h1]
    split <;> simp
  · have := h2.append k2
    split <;> rename_i e <;> simpa [e] using this
  · have := h3.append k3
    split <;> rename_i e <;> simpa [e] using this

theorem writesCell_of_store {s t : State} (hm : Memory.wf s.mem = true) {a : Word} {v : Byte}
    (h : t.mem = storeByte s.cfg s.mem a v) : WritesCell s t a v := by
  constructor
  · rw [h, cell_storeByte hm, if_pos rfl]
  · intro b hb
    rw [h, cell_storeByte hm, if_neg hb]

/-- Everything a store can do (R150, R523, R526). -/
theorem writeOperand_spec {s : State} (hw : Memory.wf s.mem = true) (h : Ready s) {o : Operand}
    (hd : DummyAllowed true o s) {v : Byte} (ha : WriteAllowed s.cfg (targetOf o s) v) :
    ∃ t, (∃ u w, readClocks (addressReads true o s) s = .next u ∧
        clock (.write (targetOf o s) v) .keep u = .next (w, t)) ∧
      runMicro (writeOperand o s.regs v) s = .next t ∧ t.regs = s.regs ∧ t.latch = v ∧
      WritesCell s t (targetOf o s) v ∧ ChipsWritten s t (targetOf o s) [v] ∧
      Kept (addressClocks true o s + 1) s t ∧ Ready t := by
  obtain ⟨t, c, e, hr, hq⟩ := addressCycles_spec h hd
  obtain ⟨u, c2, e2, hr2, hl, hm, hre, hc, hk⟩ :=
    runMicro_wr_same hq.ready (a := targetOf o s) (v := v) (by rw [hq.cfg]; exact ha) hr
  refine ⟨u, ⟨t, _, c, c2⟩, ?_, hr2, hl, ?_, chipsWritten_of_quiet hq hc, hq.kept.trans hk, hre⟩
  · rw [writeOperand, e, e2, runMicro_done, ← hr2, State.withRegs_self]
  · rw [hq.cfg, hq.mem] at hm
    exact writesCell_of_store hw hm

theorem storedRegister_none_writeAllowed {s : State} {a : Word} (ha : Accessible s.cfg a)
    (h : storedRegister s a = none) (v : Byte) : WriteAllowed s.cfg a v := by
  unfold storedRegister at h
  unfold WriteAllowed
  have h11 : ∀ c, storedViaRegister (registerIndex a) c = none → registerIndex a ≠ 11#4 := by
    intro c hc e; simp [storedViaRegister, e] at hc
  have h12 : ∀ c, storedViaRegister (registerIndex a) c = none → registerIndex a ≠ 12#4 := by
    intro c hc e; simp [storedViaRegister, e] at hc
  split <;> rename_i hr <;> simp only [hr] at h
  · exact ha hr
  · rintro ⟨e, -⟩; simp [storedVicRegister, e] at h
  · exact ⟨fun e => absurd e (h11 _ h), fun e => absurd e (h12 _ h)⟩
  · exact ⟨fun e => absurd e (h11 _ h), fun e => absurd e (h12 _ h)⟩
  all_goals trivial

/-- Everything a read-modify-write can do (R78, R230, R527): it reads a byte, writes it back, and writes the new one. -/
theorem modifyOperand_spec {s : State} (hw : Memory.wf s.mem = true) (h : Ready s) {o : Operand}
    (hd : DummyAllowed true o s) (ha : Accessible s.cfg (targetOf o s)) {f : Byte → Flags → Modified}
    (hok : ∀ v, storedRegister s (targetOf o s) = some v →
      WriteAllowed s.cfg (targetOf o s) v ∧ WriteAllowed s.cfg (targetOf o s) (f v s.regs.p).byte) :
    ∃ t m, (∃ u o1 v o2 w, ReadAfter (addressReads true o s) (targetOf o s) s m u ∧
        clock (.write (targetOf o s) m) .keep u = .next (o1, v) ∧
        clock (.write (targetOf o s) (f m s.regs.p).byte) .keep v = .next (o2, w) ∧
        t = w.withRegs { s.regs with p := (f m s.regs.p).p }) ∧
      runMicro (modifyOperand o s.regs f) s = .next t ∧ ReadsByte s (targetOf o s) m ∧
      t.regs = { s.regs with p := (f m s.regs.p).p } ∧ t.latch = (f m s.regs.p).byte ∧
      WritesCell s t (targetOf o s) (f m s.regs.p).byte ∧
      ChipsWritten s t (targetOf o s) [m, (f m s.regs.p).byte] ∧ Kept (addressClocks true o s + 3) s t ∧ Ready t := by
  obtain ⟨t, c, e, hr, hq⟩ := addressCycles_spec h hd
  obtain ⟨m, u, -, c2, e2, hm, hr2, -, hq2⟩ :=
    runMicro_rd_same hq.ready (a := targetOf o s) (by rw [hq.cfg]; exact ha) hr
  have hq12 := hq.trans hq2
  have hm' := readsByte_of_quiet hq hm
  have hboth : WriteAllowed s.cfg (targetOf o s) m ∧ WriteAllowed s.cfg (targetOf o s) (f m s.regs.p).byte := by
    cases hs : storedRegister s (targetOf o s) with
    | none => exact ⟨storedRegister_none_writeAllowed ha hs _, storedRegister_none_writeAllowed ha hs _⟩
    | some v => rw [hm'.2.2 v hs]; exact hok v hs
  obtain ⟨x, c3, e3, hr3, -, hm3, hre3, hc3, hk3⟩ :=
    runMicro_wr_same hq12.ready (a := targetOf o s) (v := m) (by rw [hq12.cfg]; exact hboth.1) hr2
  have hcfg3 : x.cfg = s.cfg := hk3.ran.cfg.trans hq12.cfg
  obtain ⟨y, c4, e4, hr4, hl4, hm4, hre4, hc4, hk4⟩ :=
    runMicro_wr_same hre3 (a := targetOf o s) (v := (f m s.regs.p).byte) (by rw [hcfg3]; exact hboth.2) hr3
  refine ⟨y.withRegs { s.regs with p := (f m s.regs.p).p }, m,
    ⟨u, _, x, _, y, ⟨t, _, c, c2, rfl⟩, c3, c4, rfl⟩, ?_, hm', rfl, hl4, ?_, ?_, ?_, hre4⟩
  · rw [modifyOperand, e]
    simp only [e2, e3, e4, runMicro_done]
  · rw [hq12.cfg, hq12.mem] at hm3
    have hx : WritesCell s x (targetOf o s) m := writesCell_of_store hw hm3
    have hxw : Memory.wf x.mem = true := by rw [hm3]; exact Memory.wf_storeByte hw _ _
    have hy : WritesCell x y (targetOf o s) (f m s.regs.p).byte := writesCell_of_store hxw hm4
    refine ⟨?_, fun b hb => (hy.2 b hb).trans (hx.2 b hb)⟩
    refine hy.1.trans ?_
    have hself : cell x.mem (targetOf o s) = cellAfterWrite s (targetOf o s) m := hx.1
    unfold cellAfterWrite at hself ⊢
    rw [hcfg3]
    cases hreg : region s.cfg (targetOf o s) <;> simp only [hreg] at hself ⊢ <;> exact hself
  · have h12 : ChipsWritten s y (targetOf o s) ([m] ++ [(f m s.regs.p).byte]) :=
      (chipsWritten_of_quiet hq12 hc3).append hcfg3 hc4
    exact h12
  · exact kept_withRegs ((hq12.kept.trans hk3).trans hk4) _

/-- Everything an implied or accumulator instruction can do (R522). -/
theorem implied_spec {s : State} (h : Ready s) (ha : Accessible s.cfg s.regs.pc) :
    ∃ t, (∀ r', runMicro (implied s.regs r') s = .next (t.withRegs r')) ∧
      (isMemory s.cfg s.regs.pc = true →
        t.latch = if s.cfg.latchOnFetch then cell s.mem s.regs.pc else s.latch) ∧ Quiet 1 s t := by
  obtain ⟨v, t, e, -, -, hl, hq⟩ := runMicro_fetchAt h (r := s.regs) ha
  exact ⟨t, fun r' => by rw [implied, e]; rfl, hl, hq⟩

end Sys2Proof.Machine
end

