-- ==== Sys2Proof/Laws/Cycle.lean ====
section
/-! SUPPORT. The meaning of an instruction is its script run to the end (R520, R532). -/

namespace Sys2Proof.Machine

theorem exec_eq_runMicro (i : Instr) (s : State) : exec i s = runMicro (microOf i s.regs) s := by
  cases i <;> rfl

end Sys2Proof.Machine
end

