-- ==== Sys2Proof/Laws/PerInstr.lean ====
section
/-! SUPPORT. What holds of every instruction as syntax, one lemma a constructor. -/

namespace Sys2Proof.Laws.Encoded

/-- The encoding of an instruction is a documented opcode and as many operand bytes as the opcode's mode has (R120, R139). -/
def Statement (i : Instr) : Prop :=
  ∃ op args row, encode i = op :: args ∧ findRow op = some row ∧ args.length = row.mode.operands

theorem brk : Statement .brk := ⟨_, _, _, rfl, rfl, rfl⟩

theorem oraIzx (z : Byte) : Statement (.oraIzx z) := ⟨_, _, _, rfl, rfl, rfl⟩

theorem oraZp (z : Byte) : Statement (.oraZp z) := ⟨_, _, _, rfl, rfl, rfl⟩

theorem aslZp (z : Byte) : Statement (.aslZp z) := ⟨_, _, _, rfl, rfl, rfl⟩

theorem php : Statement .php := ⟨_, _, _, rfl, rfl, rfl⟩

theorem oraImm (v : Byte) : Statement (.oraImm v) := ⟨_, _, _, rfl, rfl, rfl⟩

theorem aslAcc : Statement .aslAcc := ⟨_, _, _, rfl, rfl, rfl⟩

theorem oraAbs (a : Word) : Statement (.oraAbs a) := ⟨_, _, _, rfl, rfl, rfl⟩

theorem aslAbs (a : Word) : Statement (.aslAbs a) := ⟨_, _, _, rfl, rfl, rfl⟩

theorem bpl (d : Byte) : Statement (.bpl d) := ⟨_, _, _, rfl, rfl, rfl⟩

theorem oraIzy (z : Byte) : Statement (.oraIzy z) := ⟨_, _, _, rfl, rfl, rfl⟩

theorem oraZpx (z : Byte) : Statement (.oraZpx z) := ⟨_, _, _, rfl, rfl, rfl⟩

theorem aslZpx (z : Byte) : Statement (.aslZpx z) := ⟨_, _, _, rfl, rfl, rfl⟩

theorem clc : Statement .clc := ⟨_, _, _, rfl, rfl, rfl⟩

theorem oraAby (a : Word) : Statement (.oraAby a) := ⟨_, _, _, rfl, rfl, rfl⟩

theorem oraAbx (a : Word) : Statement (.oraAbx a) := ⟨_, _, _, rfl, rfl, rfl⟩

theorem aslAbx (a : Word) : Statement (.aslAbx a) := ⟨_, _, _, rfl, rfl, rfl⟩

theorem jsr (a : Word) : Statement (.jsr a) := ⟨_, _, _, rfl, rfl, rfl⟩

theorem andIzx (z : Byte) : Statement (.andIzx z) := ⟨_, _, _, rfl, rfl, rfl⟩

theorem bitZp (z : Byte) : Statement (.bitZp z) := ⟨_, _, _, rfl, rfl, rfl⟩

theorem andZp (z : Byte) : Statement (.andZp z) := ⟨_, _, _, rfl, rfl, rfl⟩

theorem rolZp (z : Byte) : Statement (.rolZp z) := ⟨_, _, _, rfl, rfl, rfl⟩

theorem plp : Statement .plp := ⟨_, _, _, rfl, rfl, rfl⟩

theorem andImm (v : Byte) : Statement (.andImm v) := ⟨_, _, _, rfl, rfl, rfl⟩

theorem rolAcc : Statement .rolAcc := ⟨_, _, _, rfl, rfl, rfl⟩

theorem bitAbs (a : Word) : Statement (.bitAbs a) := ⟨_, _, _, rfl, rfl, rfl⟩

theorem andAbs (a : Word) : Statement (.andAbs a) := ⟨_, _, _, rfl, rfl, rfl⟩

theorem rolAbs (a : Word) : Statement (.rolAbs a) := ⟨_, _, _, rfl, rfl, rfl⟩

theorem bmi (d : Byte) : Statement (.bmi d) := ⟨_, _, _, rfl, rfl, rfl⟩

theorem andIzy (z : Byte) : Statement (.andIzy z) := ⟨_, _, _, rfl, rfl, rfl⟩

theorem andZpx (z : Byte) : Statement (.andZpx z) := ⟨_, _, _, rfl, rfl, rfl⟩

theorem rolZpx (z : Byte) : Statement (.rolZpx z) := ⟨_, _, _, rfl, rfl, rfl⟩

theorem sec : Statement .sec := ⟨_, _, _, rfl, rfl, rfl⟩

theorem andAby (a : Word) : Statement (.andAby a) := ⟨_, _, _, rfl, rfl, rfl⟩

theorem andAbx (a : Word) : Statement (.andAbx a) := ⟨_, _, _, rfl, rfl, rfl⟩

theorem rolAbx (a : Word) : Statement (.rolAbx a) := ⟨_, _, _, rfl, rfl, rfl⟩

theorem rti : Statement .rti := ⟨_, _, _, rfl, rfl, rfl⟩

theorem eorIzx (z : Byte) : Statement (.eorIzx z) := ⟨_, _, _, rfl, rfl, rfl⟩

theorem eorZp (z : Byte) : Statement (.eorZp z) := ⟨_, _, _, rfl, rfl, rfl⟩

theorem lsrZp (z : Byte) : Statement (.lsrZp z) := ⟨_, _, _, rfl, rfl, rfl⟩

theorem pha : Statement .pha := ⟨_, _, _, rfl, rfl, rfl⟩

theorem eorImm (v : Byte) : Statement (.eorImm v) := ⟨_, _, _, rfl, rfl, rfl⟩

theorem lsrAcc : Statement .lsrAcc := ⟨_, _, _, rfl, rfl, rfl⟩

theorem jmpAbs (a : Word) : Statement (.jmpAbs a) := ⟨_, _, _, rfl, rfl, rfl⟩

theorem eorAbs (a : Word) : Statement (.eorAbs a) := ⟨_, _, _, rfl, rfl, rfl⟩

theorem lsrAbs (a : Word) : Statement (.lsrAbs a) := ⟨_, _, _, rfl, rfl, rfl⟩

theorem bvc (d : Byte) : Statement (.bvc d) := ⟨_, _, _, rfl, rfl, rfl⟩

theorem eorIzy (z : Byte) : Statement (.eorIzy z) := ⟨_, _, _, rfl, rfl, rfl⟩

theorem eorZpx (z : Byte) : Statement (.eorZpx z) := ⟨_, _, _, rfl, rfl, rfl⟩

theorem lsrZpx (z : Byte) : Statement (.lsrZpx z) := ⟨_, _, _, rfl, rfl, rfl⟩

theorem cli : Statement .cli := ⟨_, _, _, rfl, rfl, rfl⟩

theorem eorAby (a : Word) : Statement (.eorAby a) := ⟨_, _, _, rfl, rfl, rfl⟩

theorem eorAbx (a : Word) : Statement (.eorAbx a) := ⟨_, _, _, rfl, rfl, rfl⟩

theorem lsrAbx (a : Word) : Statement (.lsrAbx a) := ⟨_, _, _, rfl, rfl, rfl⟩

theorem rts : Statement .rts := ⟨_, _, _, rfl, rfl, rfl⟩

theorem adcIzx (z : Byte) : Statement (.adcIzx z) := ⟨_, _, _, rfl, rfl, rfl⟩

theorem adcZp (z : Byte) : Statement (.adcZp z) := ⟨_, _, _, rfl, rfl, rfl⟩

theorem rorZp (z : Byte) : Statement (.rorZp z) := ⟨_, _, _, rfl, rfl, rfl⟩

theorem pla : Statement .pla := ⟨_, _, _, rfl, rfl, rfl⟩

theorem adcImm (v : Byte) : Statement (.adcImm v) := ⟨_, _, _, rfl, rfl, rfl⟩

theorem rorAcc : Statement .rorAcc := ⟨_, _, _, rfl, rfl, rfl⟩

theorem jmpInd (a : Word) : Statement (.jmpInd a) := ⟨_, _, _, rfl, rfl, rfl⟩

theorem adcAbs (a : Word) : Statement (.adcAbs a) := ⟨_, _, _, rfl, rfl, rfl⟩

theorem rorAbs (a : Word) : Statement (.rorAbs a) := ⟨_, _, _, rfl, rfl, rfl⟩

theorem bvs (d : Byte) : Statement (.bvs d) := ⟨_, _, _, rfl, rfl, rfl⟩

theorem adcIzy (z : Byte) : Statement (.adcIzy z) := ⟨_, _, _, rfl, rfl, rfl⟩

theorem adcZpx (z : Byte) : Statement (.adcZpx z) := ⟨_, _, _, rfl, rfl, rfl⟩

theorem rorZpx (z : Byte) : Statement (.rorZpx z) := ⟨_, _, _, rfl, rfl, rfl⟩

theorem sei : Statement .sei := ⟨_, _, _, rfl, rfl, rfl⟩

theorem adcAby (a : Word) : Statement (.adcAby a) := ⟨_, _, _, rfl, rfl, rfl⟩

theorem adcAbx (a : Word) : Statement (.adcAbx a) := ⟨_, _, _, rfl, rfl, rfl⟩

theorem rorAbx (a : Word) : Statement (.rorAbx a) := ⟨_, _, _, rfl, rfl, rfl⟩

theorem staIzx (z : Byte) : Statement (.staIzx z) := ⟨_, _, _, rfl, rfl, rfl⟩

theorem styZp (z : Byte) : Statement (.styZp z) := ⟨_, _, _, rfl, rfl, rfl⟩

theorem staZp (z : Byte) : Statement (.staZp z) := ⟨_, _, _, rfl, rfl, rfl⟩

theorem stxZp (z : Byte) : Statement (.stxZp z) := ⟨_, _, _, rfl, rfl, rfl⟩

theorem dey : Statement .dey := ⟨_, _, _, rfl, rfl, rfl⟩

theorem txa : Statement .txa := ⟨_, _, _, rfl, rfl, rfl⟩

theorem styAbs (a : Word) : Statement (.styAbs a) := ⟨_, _, _, rfl, rfl, rfl⟩

theorem staAbs (a : Word) : Statement (.staAbs a) := ⟨_, _, _, rfl, rfl, rfl⟩

theorem stxAbs (a : Word) : Statement (.stxAbs a) := ⟨_, _, _, rfl, rfl, rfl⟩

theorem bcc (d : Byte) : Statement (.bcc d) := ⟨_, _, _, rfl, rfl, rfl⟩

theorem staIzy (z : Byte) : Statement (.staIzy z) := ⟨_, _, _, rfl, rfl, rfl⟩

theorem styZpx (z : Byte) : Statement (.styZpx z) := ⟨_, _, _, rfl, rfl, rfl⟩

theorem staZpx (z : Byte) : Statement (.staZpx z) := ⟨_, _, _, rfl, rfl, rfl⟩

theorem stxZpy (z : Byte) : Statement (.stxZpy z) := ⟨_, _, _, rfl, rfl, rfl⟩

theorem tya : Statement .tya := ⟨_, _, _, rfl, rfl, rfl⟩

theorem staAby (a : Word) : Statement (.staAby a) := ⟨_, _, _, rfl, rfl, rfl⟩

theorem txs : Statement .txs := ⟨_, _, _, rfl, rfl, rfl⟩

theorem staAbx (a : Word) : Statement (.staAbx a) := ⟨_, _, _, rfl, rfl, rfl⟩

theorem ldyImm (v : Byte) : Statement (.ldyImm v) := ⟨_, _, _, rfl, rfl, rfl⟩

theorem ldaIzx (z : Byte) : Statement (.ldaIzx z) := ⟨_, _, _, rfl, rfl, rfl⟩

theorem ldxImm (v : Byte) : Statement (.ldxImm v) := ⟨_, _, _, rfl, rfl, rfl⟩

theorem ldyZp (z : Byte) : Statement (.ldyZp z) := ⟨_, _, _, rfl, rfl, rfl⟩

theorem ldaZp (z : Byte) : Statement (.ldaZp z) := ⟨_, _, _, rfl, rfl, rfl⟩

theorem ldxZp (z : Byte) : Statement (.ldxZp z) := ⟨_, _, _, rfl, rfl, rfl⟩

theorem tay : Statement .tay := ⟨_, _, _, rfl, rfl, rfl⟩

theorem ldaImm (v : Byte) : Statement (.ldaImm v) := ⟨_, _, _, rfl, rfl, rfl⟩

theorem tax : Statement .tax := ⟨_, _, _, rfl, rfl, rfl⟩

theorem ldyAbs (a : Word) : Statement (.ldyAbs a) := ⟨_, _, _, rfl, rfl, rfl⟩

theorem ldaAbs (a : Word) : Statement (.ldaAbs a) := ⟨_, _, _, rfl, rfl, rfl⟩

theorem ldxAbs (a : Word) : Statement (.ldxAbs a) := ⟨_, _, _, rfl, rfl, rfl⟩

theorem bcs (d : Byte) : Statement (.bcs d) := ⟨_, _, _, rfl, rfl, rfl⟩

theorem ldaIzy (z : Byte) : Statement (.ldaIzy z) := ⟨_, _, _, rfl, rfl, rfl⟩

theorem ldyZpx (z : Byte) : Statement (.ldyZpx z) := ⟨_, _, _, rfl, rfl, rfl⟩

theorem ldaZpx (z : Byte) : Statement (.ldaZpx z) := ⟨_, _, _, rfl, rfl, rfl⟩

theorem ldxZpy (z : Byte) : Statement (.ldxZpy z) := ⟨_, _, _, rfl, rfl, rfl⟩

theorem clv : Statement .clv := ⟨_, _, _, rfl, rfl, rfl⟩

theorem ldaAby (a : Word) : Statement (.ldaAby a) := ⟨_, _, _, rfl, rfl, rfl⟩

theorem tsx : Statement .tsx := ⟨_, _, _, rfl, rfl, rfl⟩

theorem ldyAbx (a : Word) : Statement (.ldyAbx a) := ⟨_, _, _, rfl, rfl, rfl⟩

theorem ldaAbx (a : Word) : Statement (.ldaAbx a) := ⟨_, _, _, rfl, rfl, rfl⟩

theorem ldxAby (a : Word) : Statement (.ldxAby a) := ⟨_, _, _, rfl, rfl, rfl⟩

theorem cpyImm (v : Byte) : Statement (.cpyImm v) := ⟨_, _, _, rfl, rfl, rfl⟩

theorem cmpIzx (z : Byte) : Statement (.cmpIzx z) := ⟨_, _, _, rfl, rfl, rfl⟩

theorem cpyZp (z : Byte) : Statement (.cpyZp z) := ⟨_, _, _, rfl, rfl, rfl⟩

theorem cmpZp (z : Byte) : Statement (.cmpZp z) := ⟨_, _, _, rfl, rfl, rfl⟩

theorem decZp (z : Byte) : Statement (.decZp z) := ⟨_, _, _, rfl, rfl, rfl⟩

theorem iny : Statement .iny := ⟨_, _, _, rfl, rfl, rfl⟩

theorem cmpImm (v : Byte) : Statement (.cmpImm v) := ⟨_, _, _, rfl, rfl, rfl⟩

theorem dex : Statement .dex := ⟨_, _, _, rfl, rfl, rfl⟩

theorem cpyAbs (a : Word) : Statement (.cpyAbs a) := ⟨_, _, _, rfl, rfl, rfl⟩

theorem cmpAbs (a : Word) : Statement (.cmpAbs a) := ⟨_, _, _, rfl, rfl, rfl⟩

theorem decAbs (a : Word) : Statement (.decAbs a) := ⟨_, _, _, rfl, rfl, rfl⟩

theorem bne (d : Byte) : Statement (.bne d) := ⟨_, _, _, rfl, rfl, rfl⟩

theorem cmpIzy (z : Byte) : Statement (.cmpIzy z) := ⟨_, _, _, rfl, rfl, rfl⟩

theorem cmpZpx (z : Byte) : Statement (.cmpZpx z) := ⟨_, _, _, rfl, rfl, rfl⟩

theorem decZpx (z : Byte) : Statement (.decZpx z) := ⟨_, _, _, rfl, rfl, rfl⟩

theorem cld : Statement .cld := ⟨_, _, _, rfl, rfl, rfl⟩

theorem cmpAby (a : Word) : Statement (.cmpAby a) := ⟨_, _, _, rfl, rfl, rfl⟩

theorem cmpAbx (a : Word) : Statement (.cmpAbx a) := ⟨_, _, _, rfl, rfl, rfl⟩

theorem decAbx (a : Word) : Statement (.decAbx a) := ⟨_, _, _, rfl, rfl, rfl⟩

theorem cpxImm (v : Byte) : Statement (.cpxImm v) := ⟨_, _, _, rfl, rfl, rfl⟩

theorem sbcIzx (z : Byte) : Statement (.sbcIzx z) := ⟨_, _, _, rfl, rfl, rfl⟩

theorem cpxZp (z : Byte) : Statement (.cpxZp z) := ⟨_, _, _, rfl, rfl, rfl⟩

theorem sbcZp (z : Byte) : Statement (.sbcZp z) := ⟨_, _, _, rfl, rfl, rfl⟩

theorem incZp (z : Byte) : Statement (.incZp z) := ⟨_, _, _, rfl, rfl, rfl⟩

theorem inx : Statement .inx := ⟨_, _, _, rfl, rfl, rfl⟩

theorem sbcImm (v : Byte) : Statement (.sbcImm v) := ⟨_, _, _, rfl, rfl, rfl⟩

theorem nop : Statement .nop := ⟨_, _, _, rfl, rfl, rfl⟩

theorem cpxAbs (a : Word) : Statement (.cpxAbs a) := ⟨_, _, _, rfl, rfl, rfl⟩

theorem sbcAbs (a : Word) : Statement (.sbcAbs a) := ⟨_, _, _, rfl, rfl, rfl⟩

theorem incAbs (a : Word) : Statement (.incAbs a) := ⟨_, _, _, rfl, rfl, rfl⟩

theorem beq (d : Byte) : Statement (.beq d) := ⟨_, _, _, rfl, rfl, rfl⟩

theorem sbcIzy (z : Byte) : Statement (.sbcIzy z) := ⟨_, _, _, rfl, rfl, rfl⟩

theorem sbcZpx (z : Byte) : Statement (.sbcZpx z) := ⟨_, _, _, rfl, rfl, rfl⟩

theorem incZpx (z : Byte) : Statement (.incZpx z) := ⟨_, _, _, rfl, rfl, rfl⟩

theorem sed : Statement .sed := ⟨_, _, _, rfl, rfl, rfl⟩

theorem sbcAby (a : Word) : Statement (.sbcAby a) := ⟨_, _, _, rfl, rfl, rfl⟩

theorem sbcAbx (a : Word) : Statement (.sbcAbx a) := ⟨_, _, _, rfl, rfl, rfl⟩

theorem incAbx (a : Word) : Statement (.incAbx a) := ⟨_, _, _, rfl, rfl, rfl⟩

end Sys2Proof.Laws.Encoded
end

