-- ==== Sys2Proof/Laws/Stack.lean ====
section
/-! SUPPORT. Everything a push, a pull, a vector load and an interrupt entry can do. -/

namespace Sys2Proof.Machine

/-- What clocks that write only the stack leave, but for the pending NMI. -/
structure Stacked (n : Nat) (s t : State) : Prop where
  ready : Ready t
  chips : ChipsKept s t
  ran : Ran n s t

theorem Quiet.stacked {n : Nat} {s t : State} (h : Quiet n s t) : Stacked n s t := ⟨h.ready, h.chips, h.kept.ran⟩

theorem chipsKept_of_stackWrite {s t : State} {x v : Byte} (h : ChipsWritten s t (stackAddr x) [v]) : ChipsKept s t := by
  obtain ⟨h1, h2, h3⟩ := h
  simp [ViaWritten] at h1 h2 h3
  exact ⟨h1, h2, h3⟩

/-- One push (R180): the byte stands at `$0100 + S`, and `S` goes down by 1. -/
theorem runMicro_push {s : State} (h : Ready s) (r : Regs) (v : Byte) :
    ∃ t, (∀ next, runMicro (push r v next) s = runMicro (next (pushed r)) t) ∧ t.latch = v ∧
      t.mem = memPut s.mem (stackAddr r.s).toNat v ∧ Ready t ∧ ChipsKept s t ∧ Kept 1 s t := by
  obtain ⟨t, e, -, hl, hm, hre, hc, hk⟩ := runMicro_wr h (writeAllowed_stack s.cfg r.s v) r
  exact ⟨t, fun next => by rw [push, e], hl, by simpa [storeByte] using hm, hre, chipsKept_of_stackWrite hc, hk⟩

/-- The read at `$0100 + S` of a pull (R181). -/
theorem runMicro_stackRead {s : State} (h : Ready s) (r : Regs) (x : Byte) :
    ∃ t, (∀ next, runMicro (rd r (stackAddr x) next) s = runMicro (next (cell s.mem (stackAddr x))) t) ∧
      t.latch = cell s.mem (stackAddr x) ∧ Quiet 1 s t := by
  obtain ⟨v, t, e, hv, -, hl, hq⟩ := runMicro_rd h (accessible_stack s.cfg x) r
  have hv' := hv.cell (isMemory_stack s.cfg x)
  subst hv'
  exact ⟨t, e, hl, hq⟩

/-- A read of an address whose cell is memory. -/
theorem runMicro_cellRead {s : State} (h : Ready s) (r : Regs) {a : Word} (ha : isMemory s.cfg a = true) :
    ∃ t, (∀ next, runMicro (rd r a next) s = runMicro (next (cell s.mem a)) t) ∧ t.latch = cell s.mem a ∧
      Quiet 1 s t := by
  obtain ⟨v, t, e, hv, -, hl, hq⟩ := runMicro_rd h (accessible_of_isMemory ha) r
  have hv' := hv.cell ha
  subst hv'
  exact ⟨t, e, hl, hq⟩

theorem isMemory_vector (cfg : Config) {a : Word} (h : 0xFFFA ≤ a.toNat) : isMemory cfg a = true := by
  simp [isMemory, region_vector cfg h]

/-- The last two cycles of an entry (R530): PC from the vector, I set. -/
theorem runMicro_loadVector {s : State} (h : Ready s) (r : Regs) {vector : Word} (h1 : 0xFFFA ≤ vector.toNat)
    (h2 : 0xFFFA ≤ (vector + 1).toNat) :
    ∃ t, runMicro (loadVector r vector) s = .next (t.withRegs { maskIrq r with pc := vectorWord s vector }) ∧
      Quiet 2 s t := by
  obtain ⟨t, e, -, hq⟩ := runMicro_cellRead h r (isMemory_vector s.cfg h1)
  obtain ⟨u, e2, -, hq2⟩ := runMicro_cellRead hq.ready (maskIrq r) (isMemory_vector t.cfg h2)
  refine ⟨u, ?_, hq.trans hq2⟩
  rw [loadVector, e, e2, hq.mem]
  rfl

/-- A clock whose write may take over a pending NMI (R309, R530): as a write, and with `brk_hijack` a pending NMI is cleared. -/
theorem clock_write_hijack {s : State} (h : Ready s) (x v : Byte) :
    ∃ t, clock (.write (stackAddr x) v) .hijack s =
        .next (⟨v, s.cfg.brkHijack && (inputsAfter 1 s).nmiPending⟩, t) ∧
      t.mem = memPut s.mem (stackAddr x).toNat v ∧ Ready t ∧ ChipsKept s t ∧ Ran 1 s t ∧
      t.nmiPending =
        (if s.cfg.brkHijack && (inputsAfter 1 s).nmiPending then false else (inputsAfter 1 s).nmiPending) := by
  obtain ⟨c, out, e, hr, hf⟩ := vicPhase_spec (s := sampleInputs s) h
  have hp : (sampleNmi (((sampleInputs s).withVic c).emit out)).nmiPending = (inputsAfter 1 s).nmiPending := by
    simp [inputsAfter]
  have hcfg : (sampleNmi (((sampleInputs s).withVic c).emit out)).cfg = s.cfg := by simp
  simp only [clock, e, andThen_next, cpuPhase, actOnNmi, hijacks, hp, hcfg]
  by_cases hj : (s.cfg.brkHijack && (inputsAfter 1 s).nmiPending) = true
  · rw [if_pos hj, if_pos hj]
    obtain ⟨g, A, B, eb, hg, hgf, hA, hB⟩ := busWrite_spec (a := stackAddr x) (v := v)
      (s := (sampleNmi (((sampleInputs s).withVic c).emit out)).withNmiPending false) (by simp)
    simp only [busAccess, eb, andThen_next]
    simp [ViaWritten] at hg hA hB
    refine ⟨_, rfl, by simp [storeByte], by simpa [Ready, hgf] using hf, ⟨by simp [hg, hr], by simp [hA], by simp [hB]⟩,
      ?_, by simp⟩
    constructor <;> simp [inputsAfter]
  · rw [if_neg hj, if_neg hj]
    obtain ⟨g, A, B, eb, hg, hgf, hA, hB⟩ := busWrite_spec (a := stackAddr x) (v := v)
      (s := sampleNmi (((sampleInputs s).withVic c).emit out)) (by simp)
    simp only [busAccess, eb, andThen_next]
    simp [ViaWritten] at hg hA hB
    refine ⟨_, rfl, by simp [storeByte], by simpa [Ready, hgf] using hf, ⟨by simp [hg, hr], by simp [hA], by simp [hB]⟩,
      ?_, by simp [inputsAfter]⟩
    constructor <;> simp [inputsAfter]

/-- A clock that enters the NMI sequence (R306): a fetch, with the pending NMI cleared. -/
theorem clock_fetch_enter {s : State} (h : Ready s) {a : Word} (ha : Accessible s.cfg a) :
    ∃ o t, clock (.fetch a) .enter s = .next (o, t) ∧ t.mem = s.mem ∧ Ready t ∧ ChipsKept s t ∧ Ran 1 s t ∧
      t.nmiPending = false := by
  obtain ⟨c, out, e, hr, hf⟩ := vicPhase_spec (s := sampleInputs s) h
  simp only [clock, e, andThen_next, cpuPhase, actOnNmi, hijacks]
  obtain ⟨v, A, B, l, eb, hA, hB, -, -, -⟩ :=
    busFetch_spec (a := a) (s := (sampleNmi (((sampleInputs s).withVic c).emit out)).withNmiPending false)
      (by simpa using ha)
  simp only [busAccess, eb, andThen_next]
  refine ⟨_, _, rfl, by simp, by simpa [Ready] using hf, ⟨by simp [hr], by simpa using hA, by simpa using hB⟩, ?_,
    by simp⟩
  constructor <;> simp [inputsAfter]

theorem cell_pushed {m : List Host.Cell} (hm : Memory.wf m = true) (x v : Byte) (b : Word) :
    cell (memPut m (stackAddr x).toNat v) b = if b = stackAddr x then v else cell m b := cell_memPut hm _ _ _

theorem vectorWord_of_cells {s t : State} {vector : Word} (h1 : cell t.mem vector = cell s.mem vector)
    (h2 : cell t.mem (vector + 1) = cell s.mem (vector + 1)) : vectorWord t vector = vectorWord s vector := by
  rw [vectorWord, vectorWord, h1, h2]

theorem stackAddr_lt {x : Byte} : (stackAddr x).toNat < 0x0200 := by
  have := x.isLt
  rw [stackAddr_toNat]; omega

/-- Three pushes seen through reads: each byte stands where it was pushed, every other cell is as before. -/
theorem cell_threePushes {m : List Host.Cell} (hm : Memory.wf m = true) (x p q r : Byte) (b : Word) :
    cell (memPut (memPut (memPut m (stackAddr x).toNat p) (stackAddr (x - 1)).toNat q) (stackAddr (x - 2)).toNat r) b =
      if b = stackAddr (x - 2) then r else if b = stackAddr (x - 1) then q else if b = stackAddr x then p
      else cell m b := by
  have h1 : Memory.wf (memPut m (stackAddr x).toNat p) = true := Memory.wf_memPut hm _ (stackAddr x).isLt
  have h2 : Memory.wf (memPut (memPut m (stackAddr x).toNat p) (stackAddr (x - 1)).toNat q) = true :=
    Memory.wf_memPut h1 _ (stackAddr (x - 1)).isLt
  rw [cell_memPut h2, cell_memPut h1, cell_memPut hm]

theorem stack_sub_ne (x : Byte) : stackAddr x ≠ stackAddr (x - 1) ∧ stackAddr x ≠ stackAddr (x - 2) ∧
    stackAddr (x - 1) ≠ stackAddr (x - 2) := by
  simp only [ne_eq, stackAddr_inj]
  refine ⟨?_, ?_, ?_⟩ <;> revert x <;> decide

/-- Everything an interrupt entry can do from its third cycle on, when its fifth cycle may take over a pending NMI (R270, R310,
R530). -/
theorem runMicro_takeInterrupt_hijack {s : State} (hw : Memory.wf s.mem = true) (h : Ready s) (r : Regs) (b : Bool) :
    let hijack := s.cfg.brkHijack && (inputsAfter 3 s).nmiPending
    let vector : Word := if hijack then nmiVector else irqVector
    ∃ t, runMicro (takeInterrupt r b irqVector .hijack) s =
        .next (t.withRegs { r with s := r.s - 3, pc := vectorWord s vector, p := { r.p with i := true } }) ∧
      (∀ a, cell t.mem a =
        if a = stackAddr (r.s - 2) then packP r.p b else if a = stackAddr (r.s - 1) then loByte r.pc
        else if a = stackAddr r.s then hiByte r.pc else cell s.mem a) ∧
      Stacked 5 s t ∧
      t.nmiPending = if hijack then pendingAfterClear 3 5 s else (inputsAfter 5 s).nmiPending := by
  intro hijack vector
  obtain ⟨t1, e1, -, m1, r1, c1, k1⟩ := runMicro_push h r (hiByte r.pc)
  obtain ⟨t2, e2, -, m2, r2, c2, k2⟩ := runMicro_push r1 (pushed r) (loByte r.pc)
  have k12 := k1.trans k2
  have hs3 : (pushed (pushed r)).s = r.s - 2 := by
    simp only [pushed]
    generalize r.s = x
    revert x; decide
  obtain ⟨t3, e3, m3, r3, c3, n3, p3⟩ :=
    clock_write_hijack (s := t2.withRegs (pushed (pushed r))) r2 (r.s - 2) (packP r.p b)
  have hp3 : (inputsAfter 1 (t2.withRegs (pushed (pushed r)))).nmiPending = (inputsAfter 3 s).nmiPending := by
    have a1 := inputsAfter_congr 1 (sameInputs_withRegs t2 (pushed (pushed r)))
    have a2 := inputsAfter_congr 1 k12.same
    rw [a1.nmiPending, a2.nmiPending, ← inputsAfter_add]
  have hcfg2 : t2.cfg = s.cfg := k12.ran.cfg
  have hj : ((t2.withRegs (pushed (pushed r))).cfg.brkHijack &&
      (inputsAfter 1 (t2.withRegs (pushed (pushed r)))).nmiPending) = hijack := by
    rw [hp3]; simp [hcfg2, hijack]
  rw [hj] at e3 p3
  have hcell : ∀ a, cell t3.mem a =
      if a = stackAddr (r.s - 2) then packP r.p b else if a = stackAddr (r.s - 1) then loByte r.pc
        else if a = stackAddr r.s then hiByte r.pc else cell s.mem a := by
    intro a
    rw [m3]
    simp only [State.withRegs_mem, m2, m1]
    exact cell_threePushes hw r.s _ _ _ a
  have hvec : ∀ a : Word, 0xFFFA ≤ a.toNat → cell t3.mem a = cell s.mem a := by
    intro a ha
    have hne : ∀ x, a ≠ stackAddr x := by
      intro x e
      have := @stackAddr_lt x
      rw [e] at ha
      omega
    rw [hcell, if_neg (hne _), if_neg (hne _), if_neg (hne _)]
  have hv1 : 0xFFFA ≤ vector.toNat := by
    simp only [vector]; split <;> decide
  have hv2 : 0xFFFA ≤ (vector + 1).toNat := by
    simp only [vector]; split <;> decide
  obtain ⟨t4, e4, q4⟩ := runMicro_loadVector r3 (pushed (pushed (pushed r))) hv1 hv2
  refine ⟨t4, ?_, ?_, ?_, ?_⟩
  · have hpk : (pushed (pushed r)).p = r.p := rfl
    rw [takeInterrupt, pushWord, e1]
    have : (pushed r).pc = r.pc := rfl
    rw [e2, runMicro_cycle, hs3, hpk, e3]
    simp only [andThen_next]
    have hvw : (if hijack = true then nmiVector else irqVector) = vector := rfl
    rw [hvw, e4]
    congr 2
    have hs : (pushed (pushed (pushed r))).s = r.s - 3 := by
      simp only [pushed]
      generalize r.s = x
      revert x; decide
    have hvv : vectorWord t3 vector = vectorWord s vector := vectorWord_of_cells (hvec _ hv1) (hvec _ hv2)
    simp only [maskIrq, hvv, hs]
    rfl
  · intro a; rw [q4.mem]; exact hcell a
  · have c3' : ChipsKept t2 t3 := ⟨c3.vicRegs, c3.viaA, c3.viaB⟩
    exact ⟨q4.ready, ((c1.trans c2).trans c3').trans q4.chips, (k12.ran.trans (ran_of_withRegs n3)).trans q4.kept.ran⟩
  · rw [q4.kept.nmiPending]
    have n3i := k12.ran.trans (ran_of_withRegs n3)
    by_cases hh : hijack = true
    · rw [if_pos hh] at p3 ⊢
      have : SameInputs t3 ((inputsAfter 3 s).withNmiPending false) := ⟨n3i.inp, n3i.inputs, n3i.nmiPrev, p3⟩
      exact (inputsAfter_congr 2 this).nmiPending
    · rw [if_neg hh] at p3 ⊢
      have : SameInputs t3 (inputsAfter 3 s) := ⟨n3i.inp, n3i.inputs, n3i.nmiPrev, p3.trans hp3⟩
      rw [(inputsAfter_congr 2 this).nmiPending, ← inputsAfter_add]

/-- Everything an NMI entry can do from its third cycle on (R310, R530): its vector is chosen when it begins. -/
theorem runMicro_takeInterrupt_keep {s : State} (hw : Memory.wf s.mem = true) (h : Ready s) (r : Regs) (b : Bool)
    {vector : Word} (hv1 : 0xFFFA ≤ vector.toNat) (hv2 : 0xFFFA ≤ (vector + 1).toNat) :
    ∃ t, runMicro (takeInterrupt r b vector .keep) s =
        .next (t.withRegs { r with s := r.s - 3, pc := vectorWord s vector, p := { r.p with i := true } }) ∧
      (∀ a, cell t.mem a =
        if a = stackAddr (r.s - 2) then packP r.p b else if a = stackAddr (r.s - 1) then loByte r.pc
        else if a = stackAddr r.s then hiByte r.pc else cell s.mem a) ∧
      Ready t ∧ ChipsKept s t ∧ Kept 5 s t := by
  obtain ⟨t1, e1, -, m1, r1, c1, k1⟩ := runMicro_push h r (hiByte r.pc)
  obtain ⟨t2, e2, -, m2, r2, c2, k2⟩ := runMicro_push r1 (pushed r) (loByte r.pc)
  have hs3 : (pushed (pushed r)).s = r.s - 2 := by
    simp only [pushed]
    generalize r.s = x
    revert x; decide
  have hs4 : (pushed (pushed (pushed r))).s = r.s - 3 := by
    simp only [pushed]
    generalize r.s = x
    revert x; decide
  obtain ⟨t3, e3, -, -, m3, r3, c3, k3⟩ := clock_write (s := t2.withRegs (pushed (pushed r))) (a := stackAddr (r.s - 2))
    (v := packP r.p b) r2 (by simp)
  have hcell : ∀ a, cell t3.mem a =
      if a = stackAddr (r.s - 2) then packP r.p b else if a = stackAddr (r.s - 1) then loByte r.pc
        else if a = stackAddr r.s then hiByte r.pc else cell s.mem a := by
    intro a
    rw [m3]
    simp only [State.withRegs_mem, storeByte, region_stack, m2, m1]
    exact cell_threePushes hw r.s _ _ _ a
  have hvec : ∀ a : Word, 0xFFFA ≤ a.toNat → cell t3.mem a = cell s.mem a := by
    intro a ha
    have hne : ∀ x, a ≠ stackAddr x := by
      intro x e
      have := @stackAddr_lt x
      rw [e] at ha
      omega
    rw [hcell, if_neg (hne _), if_neg (hne _), if_neg (hne _)]
  obtain ⟨t4, e4, q4⟩ := runMicro_loadVector r3 (pushed (pushed (pushed r))) hv1 hv2
  have c3' := chipsKept_of_stackWrite c3
  have c3'' : ChipsKept t2 t3 := ⟨c3'.vicRegs, c3'.viaA, c3'.viaB⟩
  refine ⟨t4, ?_, fun a => by rw [q4.mem]; exact hcell a, q4.ready, ((c1.trans c2).trans c3'').trans q4.chips,
    ((k1.trans k2).trans (kept_of_withRegs k3)).trans q4.kept⟩
  have hpk : (pushed (pushed r)).p = r.p := rfl
  have hpc : (pushed r).pc = r.pc := rfl
  rw [takeInterrupt, pushWord, e1, e2, runMicro_cycle, hs3, hpk, e3]
  simp only [andThen_next, Bool.false_eq_true, if_false]
  rw [e4]
  have hvv : vectorWord t3 vector = vectorWord s vector := vectorWord_of_cells (hvec _ hv1) (hvec _ hv2)
  simp only [maskIrq, hvv, hs4]
  rfl

end Sys2Proof.Machine
end

