-- ==== Sys2Proof/Tests/Slice0.lean ====
section
/-! SUPPORT. Tests on fixed values: the checks of WellFormed, every opcode's decoding, the spec's worked examples and vectors
(95_test_vectors.md, S and V numbers), and for each statement with hypotheses a state that meets them. -/

namespace Sys2Proof.Tests

open Sys2Proof Sys2Proof.Machine

set_option maxRecDepth 4000

/-! ## Helpers -/

/-- The answer is a next state. -/
def isNext {σ : Type} : Result σ → Bool
  | .next _ => true
  | .fault _ => false
  | .refused _ => false

theorem next_of_isNext {σ : Type} {o : Result σ} (h : isNext o = true) : ∃ t, o = .next t := by
  cases o with
  | next t => exact ⟨t, rfl⟩
  | fault e => cases h
  | refused e => cases h

/-- A part of the next state. -/
def after {σ τ : Type} (o : Result σ) (f : σ → τ) : Option τ :=
  match o with
  | .next t => some (f t)
  | .fault _ => none
  | .refused _ => none

/-- Why the answer is a refusal. -/
def refusalOf {σ : Type} : Result σ → Option Refusal
  | .refused e => some e
  | .next _ => none
  | .fault _ => none

/-- The fault of the answer. -/
def faultOf {σ : Type} : Result σ → Option Fault
  | .fault e => some e
  | .next _ => none
  | .refused _ => none

/-- Flags in the order the vectors write them. -/
def fl (n v d i z c : Nat) : Flags := ⟨n == 1, v == 1, d == 1, i == 1, z == 1, c == 1⟩

/-- A machine at an instruction boundary, its chips as after a reset. -/
def machine (r : Regs) (m : List Host.Cell) : State := { State.reset with seq := none, regs := r, mem := m }

/-- Registers with `PC` past an instruction at `$1000`. -/
def regs (a x y s : Byte) (p : Flags) : Regs := ⟨a, x, y, s, 0x1002#16, p⟩

/-- The machine at `$1000` with the bytes `m`. -/
def at1000 (a x y s : Byte) (p : Flags) (m : List Host.Cell) : State := machine ⟨a, x, y, s, 0x1000#16, p⟩ m

/-- A and the flags after an instruction on these registers and cells. -/
def aluOf (i : Instr) (r : Regs) (m : List Host.Cell) : Option (Byte × Flags) :=
  after (exec i (machine r m)) fun t => (t.regs.a, t.regs.p)

/-- The registers after an instruction. -/
def regsOf (i : Instr) (r : Regs) (m : List Host.Cell) : Option Regs := after (exec i (machine r m)) State.regs

/-- One cell and the registers after an instruction. -/
def cellOf (a : Word) (i : Instr) (r : Regs) (m : List Host.Cell) : Option (Byte × Regs) :=
  after (exec i (machine r m)) fun t => (cell t.mem a, t.regs)

/-! ## WellFormed: a configuration that each check refuses -/

/-- A small frame: 2 cycles a line, 3 lines, the second of them visible. -/
def smallTiming : Timing := ⟨2, 0, 1, 0, 1, 0, 1, 0, 0, 4⟩

/-- A well-formed configuration with the small frame. -/
def smallConfig : Config :=
  { Config.atReset with profile := .ntsc, ntsc := smallTiming, ntscLines := 3, sampleRate := 3 }

theorem test_wf_small : smallConfig.wf = true := by decide

/-- The sync lines reach past the first visible line. -/
theorem test_wf_refuses_sync : { smallTiming with vsShort2 := 1 }.wf = false := by decide

/-- The visible cycles are out of order. -/
theorem test_wf_refuses_visible_order : { smallTiming with hvisFirst := 2 }.wf = false := by decide

/-- The last visible cycle is past the end of the line. -/
theorem test_wf_refuses_visible_end : { smallTiming with hvisLast := 2 }.wf = false := by decide

theorem test_wf_refuses_lead_swallow : { smallTiming with leadSwallow := 9 }.wf = false := by decide

theorem test_wf_refuses_trail_swallow : { smallTiming with trailSwallow := 9 }.wf = false := by decide

/-- The first visible line is past the frame. -/
theorem test_wf_refuses_first_visible : { smallConfig with ntscLines := 1 }.wf = false := by decide

theorem test_wf_refuses_voice_unit : { smallConfig with voiceClockUnit := 0 }.wf = false := by decide

theorem test_wf_refuses_sample_rate : { smallConfig with sampleRate := 0 }.wf = false := by decide

theorem test_wf_refuses_clock_rate :
    { smallConfig with ntsc := { smallTiming with clockHz := 0 } }.wf = false := by decide

/-- A zero noise register would stay zero (R443). -/
theorem test_wf_refuses_zero_lfsr : { smallConfig with lfsrReset := 0 }.wf = false := by decide

/-! ## Decoding: the opcode map of R139, one row of it at a time, over the operand bytes `$34 $12` -/

theorem test_decode_row0 :
    [0x00#8, 0x01#8, 0x05#8, 0x06#8, 0x08#8, 0x09#8, 0x0A#8, 0x0D#8, 0x0E#8].map (decodeBytes · 0x34#8 0x12#8) =
      [some .brk, some (.oraIzx 0x34#8), some (.oraZp 0x34#8), some (.aslZp 0x34#8), some .php, some (.oraImm 0x34#8),
        some .aslAcc, some (.oraAbs 0x1234#16), some (.aslAbs 0x1234#16)] := by decide

theorem test_decode_row1 :
    [0x10#8, 0x11#8, 0x15#8, 0x16#8, 0x18#8, 0x19#8, 0x1D#8, 0x1E#8].map (decodeBytes · 0x34#8 0x12#8) =
      [some (.bpl 0x34#8), some (.oraIzy 0x34#8), some (.oraZpx 0x34#8), some (.aslZpx 0x34#8), some .clc,
        some (.oraAby 0x1234#16), some (.oraAbx 0x1234#16), some (.aslAbx 0x1234#16)] := by decide

theorem test_decode_row2 :
    [0x20#8, 0x21#8, 0x24#8, 0x25#8, 0x26#8, 0x28#8, 0x29#8, 0x2A#8, 0x2C#8, 0x2D#8, 0x2E#8].map (decodeBytes · 0x34#8 0x12#8) =
      [some (.jsr 0x1234#16), some (.andIzx 0x34#8), some (.bitZp 0x34#8), some (.andZp 0x34#8), some (.rolZp 0x34#8),
        some .plp, some (.andImm 0x34#8), some .rolAcc, some (.bitAbs 0x1234#16), some (.andAbs 0x1234#16),
        some (.rolAbs 0x1234#16)] := by decide

theorem test_decode_row3 :
    [0x30#8, 0x31#8, 0x35#8, 0x36#8, 0x38#8, 0x39#8, 0x3D#8, 0x3E#8].map (decodeBytes · 0x34#8 0x12#8) =
      [some (.bmi 0x34#8), some (.andIzy 0x34#8), some (.andZpx 0x34#8), some (.rolZpx 0x34#8), some .sec,
        some (.andAby 0x1234#16), some (.andAbx 0x1234#16), some (.rolAbx 0x1234#16)] := by decide

theorem test_decode_row4 :
    [0x40#8, 0x41#8, 0x45#8, 0x46#8, 0x48#8, 0x49#8, 0x4A#8, 0x4C#8, 0x4D#8, 0x4E#8].map (decodeBytes · 0x34#8 0x12#8) =
      [some .rti, some (.eorIzx 0x34#8), some (.eorZp 0x34#8), some (.lsrZp 0x34#8), some .pha, some (.eorImm 0x34#8),
        some .lsrAcc, some (.jmpAbs 0x1234#16), some (.eorAbs 0x1234#16), some (.lsrAbs 0x1234#16)] := by decide

theorem test_decode_row5 :
    [0x50#8, 0x51#8, 0x55#8, 0x56#8, 0x58#8, 0x59#8, 0x5D#8, 0x5E#8].map (decodeBytes · 0x34#8 0x12#8) =
      [some (.bvc 0x34#8), some (.eorIzy 0x34#8), some (.eorZpx 0x34#8), some (.lsrZpx 0x34#8), some .cli,
        some (.eorAby 0x1234#16), some (.eorAbx 0x1234#16), some (.lsrAbx 0x1234#16)] := by decide

theorem test_decode_row6 :
    [0x60#8, 0x61#8, 0x65#8, 0x66#8, 0x68#8, 0x69#8, 0x6A#8, 0x6C#8, 0x6D#8, 0x6E#8].map (decodeBytes · 0x34#8 0x12#8) =
      [some .rts, some (.adcIzx 0x34#8), some (.adcZp 0x34#8), some (.rorZp 0x34#8), some .pla, some (.adcImm 0x34#8),
        some .rorAcc, some (.jmpInd 0x1234#16), some (.adcAbs 0x1234#16), some (.rorAbs 0x1234#16)] := by decide

theorem test_decode_row7 :
    [0x70#8, 0x71#8, 0x75#8, 0x76#8, 0x78#8, 0x79#8, 0x7D#8, 0x7E#8].map (decodeBytes · 0x34#8 0x12#8) =
      [some (.bvs 0x34#8), some (.adcIzy 0x34#8), some (.adcZpx 0x34#8), some (.rorZpx 0x34#8), some .sei,
        some (.adcAby 0x1234#16), some (.adcAbx 0x1234#16), some (.rorAbx 0x1234#16)] := by decide

theorem test_decode_row8 :
    [0x81#8, 0x84#8, 0x85#8, 0x86#8, 0x88#8, 0x8A#8, 0x8C#8, 0x8D#8, 0x8E#8].map (decodeBytes · 0x34#8 0x12#8) =
      [some (.staIzx 0x34#8), some (.styZp 0x34#8), some (.staZp 0x34#8), some (.stxZp 0x34#8), some .dey, some .txa,
        some (.styAbs 0x1234#16), some (.staAbs 0x1234#16), some (.stxAbs 0x1234#16)] := by decide

theorem test_decode_row9 :
    [0x90#8, 0x91#8, 0x94#8, 0x95#8, 0x96#8, 0x98#8, 0x99#8, 0x9A#8, 0x9D#8].map (decodeBytes · 0x34#8 0x12#8) =
      [some (.bcc 0x34#8), some (.staIzy 0x34#8), some (.styZpx 0x34#8), some (.staZpx 0x34#8), some (.stxZpy 0x34#8),
        some .tya, some (.staAby 0x1234#16), some .txs, some (.staAbx 0x1234#16)] := by decide

theorem test_decode_rowA :
    [0xA0#8, 0xA1#8, 0xA2#8, 0xA4#8, 0xA5#8, 0xA6#8, 0xA8#8, 0xA9#8, 0xAA#8, 0xAC#8, 0xAD#8, 0xAE#8].map (decodeBytes · 0x34#8 0x12#8) =
      [some (.ldyImm 0x34#8), some (.ldaIzx 0x34#8), some (.ldxImm 0x34#8), some (.ldyZp 0x34#8), some (.ldaZp 0x34#8),
        some (.ldxZp 0x34#8), some .tay, some (.ldaImm 0x34#8), some .tax, some (.ldyAbs 0x1234#16),
        some (.ldaAbs 0x1234#16), some (.ldxAbs 0x1234#16)] := by decide

theorem test_decode_rowB :
    [0xB0#8, 0xB1#8, 0xB4#8, 0xB5#8, 0xB6#8, 0xB8#8, 0xB9#8, 0xBA#8, 0xBC#8, 0xBD#8, 0xBE#8].map (decodeBytes · 0x34#8 0x12#8) =
      [some (.bcs 0x34#8), some (.ldaIzy 0x34#8), some (.ldyZpx 0x34#8), some (.ldaZpx 0x34#8), some (.ldxZpy 0x34#8),
        some .clv, some (.ldaAby 0x1234#16), some .tsx, some (.ldyAbx 0x1234#16), some (.ldaAbx 0x1234#16),
        some (.ldxAby 0x1234#16)] := by decide

theorem test_decode_rowC :
    [0xC0#8, 0xC1#8, 0xC4#8, 0xC5#8, 0xC6#8, 0xC8#8, 0xC9#8, 0xCA#8, 0xCC#8, 0xCD#8, 0xCE#8].map (decodeBytes · 0x34#8 0x12#8) =
      [some (.cpyImm 0x34#8), some (.cmpIzx 0x34#8), some (.cpyZp 0x34#8), some (.cmpZp 0x34#8), some (.decZp 0x34#8),
        some .iny, some (.cmpImm 0x34#8), some .dex, some (.cpyAbs 0x1234#16), some (.cmpAbs 0x1234#16),
        some (.decAbs 0x1234#16)] := by decide

theorem test_decode_rowD :
    [0xD0#8, 0xD1#8, 0xD5#8, 0xD6#8, 0xD8#8, 0xD9#8, 0xDD#8, 0xDE#8].map (decodeBytes · 0x34#8 0x12#8) =
      [some (.bne 0x34#8), some (.cmpIzy 0x34#8), some (.cmpZpx 0x34#8), some (.decZpx 0x34#8), some .cld,
        some (.cmpAby 0x1234#16), some (.cmpAbx 0x1234#16), some (.decAbx 0x1234#16)] := by decide

theorem test_decode_rowE :
    [0xE0#8, 0xE1#8, 0xE4#8, 0xE5#8, 0xE6#8, 0xE8#8, 0xE9#8, 0xEA#8, 0xEC#8, 0xED#8, 0xEE#8].map (decodeBytes · 0x34#8 0x12#8) =
      [some (.cpxImm 0x34#8), some (.sbcIzx 0x34#8), some (.cpxZp 0x34#8), some (.sbcZp 0x34#8), some (.incZp 0x34#8),
        some .inx, some (.sbcImm 0x34#8), some .nop, some (.cpxAbs 0x1234#16), some (.sbcAbs 0x1234#16),
        some (.incAbs 0x1234#16)] := by decide

theorem test_decode_rowF :
    [0xF0#8, 0xF1#8, 0xF5#8, 0xF6#8, 0xF8#8, 0xF9#8, 0xFD#8, 0xFE#8].map (decodeBytes · 0x34#8 0x12#8) =
      [some (.beq 0x34#8), some (.sbcIzy 0x34#8), some (.sbcZpx 0x34#8), some (.incZpx 0x34#8), some .sed,
        some (.sbcAby 0x1234#16), some (.sbcAbx 0x1234#16), some (.incAbx 0x1234#16)] := by decide

/-- A truncated instruction and an undocumented opcode are rejected by name (R137, R140). -/
theorem test_decode_rejects :
    decode [0x8D#8, 0x00#8] = .error .truncated ∧ decode [0x02#8, 0x00#8] = .error (.undocumented 0x02#8) ∧
      decode [] = .error .truncated := by decide

/-- `JSR $2000` of V103 as the opcode table numbers its bits, and the opcode alone with operand bits 0. -/
theorem test_decode_table_word :
    decodeTableWord 24 0x200020 = some (.jsr 0x2000#16) ∧ decodeTableWord 8 0xA9 = some (.ldaImm 0#8) := by decide

/-- The instruction of an opcode-table word is the first one that runs after reset. -/
theorem test_with_fetch_word :
    after (step (State.reset.withFetchWord 16 0x80A9)) (fun t => (t.regs.a, t.regs.p.n)) = some (0x80#8, true) := by decide

/-! ## Addressing modes (V3 to V15) -/

theorem test_v3_zpx_wraps :
    aluOf (.ldaZpx 0xF0#8) (regs 0 0x20 0 0xFF (fl 0 0 0 1 0 0)) [(0x10, 0x77#8)] = some (0x77#8, fl 0 0 0 1 0 0) := by
  decide

theorem test_v4_zpy_wraps :
    regsOf (.ldxZpy 0xFF#8) (regs 0 0 2 0xFF (fl 0 0 0 1 0 0)) [(1, 0x80#8)] =
      some (regs 0 0x80 2 0xFF (fl 1 0 0 1 0 0)) := by decide

theorem test_v7_abx_wraps_at_the_top :
    aluOf (.ldaAbx 0xFFFF#16) (regs 0 2 0 0xFF (fl 0 0 0 1 0 0)) [(1, 0x44#8)] = some (0x44#8, fl 0 0 0 1 0 0) := by
  decide

theorem test_v8_aby_same_page :
    after (exec (.ldaAby 0x1200#16) (machine (regs 0 0 0xFF 0xFF (fl 0 0 0 1 0 0)) [(0x12FF, 0x44#8)]))
      (fun t => (t.regs.a, t.clock)) = some (0x44#8, 1) := by decide

theorem test_v9_izx_pointer_wraps :
    aluOf (.ldaIzx 0xFE#8) (regs 0 1 0 0xFF (fl 0 0 0 1 0 0)) [(0, 0x12#8), (0xFF, 0x34#8), (0x1234, 0x55#8)] =
      some (0x55#8, fl 0 0 0 1 0 0) := by decide

theorem test_v11_izy_page_cross :
    after (exec (.ldaIzy 0x80#8)
      (machine (regs 0 0 0x10 0xFF (fl 0 0 0 1 0 0)) [(0x80, 0xF8#8), (0x81, 0x12#8), (0x1308, 0x66#8)]))
      (fun t => (t.regs.a, t.clock)) = some (0x66#8, 4) := by decide

theorem test_v12_izy_pointer_wraps :
    aluOf (.ldaIzy 0xFF#8) (regs 0 0 0 0xFF (fl 0 0 0 1 0 0)) [(0, 0x10#8), (0x1000, 0x21#8)] =
      some (0x21#8, fl 0 0 0 1 0 0) := by decide

theorem test_v14_jmp_indirect_same_page :
    regsOf (.jmpInd 0x10FF#16) (regs 0 0 0 0xFF (fl 0 0 0 1 0 0))
      [(0x1000, 0x6C#8), (0x10FF, 0x34#8), (0x1100, 0x56#8)] =
      some ⟨0, 0, 0, 0xFF, 0x6C34#16, fl 0 0 0 1 0 0⟩ := by decide

theorem test_v15_fetch_wraps :
    after (step (machine ⟨0, 0, 0, 0xFF, 0xFFFE#16, fl 0 0 0 1 0 0⟩
      [(0, 0x10#8), (0x1000, 0x7F#8), (0xFFFE, 0xAD#8)])) State.regs =
      some ⟨0x7F, 0, 0, 0xFF, 0x0001#16, fl 0 0 0 1 0 0⟩ := by decide

/-! ## Loads, stores, transfers (S1, V20 to V34) -/

theorem test_s1_lda_negative :
    aluOf (.ldaImm 0x80#8) (regs 0 0 0 0xFF (fl 0 0 0 1 0 0)) [] = some (0x80#8, fl 1 0 0 1 0 0) := by decide

theorem test_v20_lda_zero_keeps_c_v :
    aluOf (.ldaImm 0#8) (regs 5 0 0 0xFF (fl 1 1 0 0 0 1)) [] = some (0#8, fl 0 1 0 0 1 1) := by decide

theorem test_v23_ldy :
    regsOf (.ldyImm 0x80#8) (regs 1 2 3 4 (fl 0 0 0 0 0 0)) [] = some (regs 1 2 0x80 4 (fl 1 0 0 0 0 0)) := by decide

theorem test_v24_sta_keeps_flags :
    after (exec (.staAbs 0x1E00#16) (machine (regs 0x41 0 0 0xFF (fl 1 0 0 0 1 0)) []))
      (fun t => (t.mem, t.latch, t.regs.p)) = some ([(0x1E00, 0x41#8)], 0x41#8, fl 1 0 0 0 1 0) := by decide

theorem test_v25_stx_zpy :
    cellOf 0x12#16 (.stxZpy 0x10#8) (regs 0 7 2 0xFF (fl 0 0 0 0 0 0)) [] =
      some (7#8, regs 0 7 2 0xFF (fl 0 0 0 0 0 0)) := by decide

theorem test_v26_sty_zpx_wraps :
    cellOf 1#16 (.styZpx 0xFF#8) (regs 0 2 0x33 0xFF (fl 0 0 0 0 0 0)) [] =
      some (0x33#8, regs 0 2 0x33 0xFF (fl 0 0 0 0 0 0)) := by decide

theorem test_v27_store_to_rom :
    after (exec (.staAbs 0xC000#16) (machine (regs 0x11 0 0 0xFF (fl 0 0 0 0 0 0)) [(0xC000, 0x99#8)]))
      (fun t => (t.mem, t.latch)) = some ([(0xC000, 0x99#8)], 0x11#8) := by decide

theorem test_v28_colour_cell :
    cellOf 0x9405#16 (.staAbs 0x9405#16) (regs 0xA7 0 0 0xFF (fl 0 0 0 0 0 0)) [] =
      some (7#8, regs 0xA7 0 0 0xFF (fl 0 0 0 0 0 0)) := by decide

theorem test_v29_tax :
    regsOf .tax (regs 0 5 6 0xFF (fl 1 0 0 0 0 0)) [] = some (regs 0 0 6 0xFF (fl 0 0 0 0 1 0)) := by decide

theorem test_v30_tay :
    regsOf .tay (regs 0x80 5 6 0xFF (fl 0 0 0 0 0 0)) [] = some (regs 0x80 5 0x80 0xFF (fl 1 0 0 0 0 0)) := by decide

theorem test_v31_txa :
    regsOf .txa (regs 0 0x7F 6 0xFF (fl 1 0 0 0 1 0)) [] = some (regs 0x7F 0x7F 6 0xFF (fl 0 0 0 0 0 0)) := by decide

theorem test_v32_tya :
    regsOf .tya (regs 0 5 0xFF 0xFF (fl 0 0 0 0 0 0)) [] = some (regs 0xFF 5 0xFF 0xFF (fl 1 0 0 0 0 0)) := by decide

theorem test_v33_tsx :
    regsOf .tsx (regs 1 5 6 0 (fl 0 0 0 0 0 0)) [] = some (regs 1 0 6 0 (fl 0 0 0 0 1 0)) := by decide

theorem test_v34_txs_sets_no_flag :
    regsOf .txs (regs 1 0 6 0xFF (fl 1 0 0 0 0 0)) [] = some (regs 1 0 6 0 (fl 1 0 0 0 0 0)) := by decide

/-! ## Stack (V36 to V39b) -/

theorem test_v36_pha_wraps :
    cellOf 0x0100#16 .pha (regs 0x77 0 0 0 (fl 0 0 0 0 0 0)) [] = some (0x77#8, regs 0x77 0 0 0xFF (fl 0 0 0 0 0 0)) := by
  decide

theorem test_v37_pla_wraps :
    regsOf .pla (regs 0 0 0 0xFF (fl 0 0 0 0 0 0)) [(0x0100, 0x80#8)] = some (regs 0x80 0 0 0 (fl 1 0 0 0 0 0)) := by
  decide

theorem test_v38_php :
    cellOf 0x01FF#16 .php (regs 0 0 0 0xFF (fl 1 0 0 1 0 1)) [] = some (0xB5#8, regs 0 0 0 0xFE (fl 1 0 0 1 0 1)) := by
  decide

theorem test_v39_php_no_flags :
    cellOf 0x01FF#16 .php (regs 0 0 0 0xFF (fl 0 0 0 0 0 0)) [] = some (0x30#8, regs 0 0 0 0xFE (fl 0 0 0 0 0 0)) := by
  decide

theorem test_v39a_plp :
    regsOf .plp (regs 0 0 0 0xFE (fl 0 0 0 0 0 0)) [(0x01FF, 0xFF#8)] = some (regs 0 0 0 0xFF (fl 1 1 1 1 1 1)) := by
  decide

theorem test_v39b_plp_discards_b :
    regsOf .plp (regs 0 0 0 0xFE (fl 1 1 1 1 1 1)) [(0x01FF, 0x30#8)] = some (regs 0 0 0 0xFF (fl 0 0 0 0 0 0)) := by
  decide

/-! ## Addition and subtraction (V40 to V49e): A, N, V, Z, C -/

/-- A row of the vectors' tables. -/
def sumRow (f : Byte → Byte → Bool → Sum) (a m : Byte) (c : Bool) : Byte × Nat × Nat × Nat × Nat :=
  let q := f a m c
  (q.result, q.n.toNat, q.v.toNat, q.z.toNat, q.c.toNat)

theorem test_v40_add_binary :
    [sumRow addBin 0x7F 0x01 false, sumRow addBin 0xFF 0x01 false, sumRow addBin 0x80 0x80 false,
      sumRow addBin 0xFF 0xFF true, sumRow addBin 0x50 0x50 false, sumRow addBin 0xD0 0x90 false,
      sumRow addBin 0x01 0xFF true] =
    [(0x80, 1, 1, 0, 0), (0x00, 0, 0, 1, 1), (0x00, 0, 1, 1, 1), (0xFF, 1, 0, 0, 1), (0xA0, 1, 1, 0, 0),
      (0x60, 0, 1, 0, 1), (0x01, 0, 0, 0, 1)] := by decide

theorem test_v41_sub_binary :
    [sumRow subBin 0x50 0xF0 true, sumRow subBin 0x00 0x01 true, sumRow subBin 0x80 0x01 true,
      sumRow subBin 0x50 0xB0 true, sumRow subBin 0x05 0x03 false, sumRow subBin 0x40 0x40 true] =
    [(0x60, 0, 0, 0, 0), (0xFF, 1, 0, 0, 0), (0x7F, 0, 1, 0, 1), (0xA0, 1, 1, 0, 0), (0x01, 0, 0, 0, 1),
      (0x00, 0, 0, 1, 1)] := by decide

/-- V46 is left out: its N contradicts R193 (log entry 27). -/
theorem test_v42_add_decimal :
    [sumRow addDec 0x49 0x01 false, sumRow addDec 0x99 0x01 false, sumRow addDec 0x58 0x46 true,
      sumRow addDec 0x12 0x34 false, sumRow addDec 0x79 0x00 true, sumRow addDec 0x50 0x50 false,
      sumRow addDec 0x0F 0x01 false] =
    [(0x50, 0, 0, 0, 0), (0x00, 1, 0, 0, 1), (0x05, 1, 1, 0, 1), (0x46, 0, 0, 0, 0), (0x80, 1, 1, 0, 0),
      (0x00, 1, 1, 0, 1), (0x16, 0, 0, 0, 0)] := by decide

theorem test_v49a_sub_decimal :
    [sumRow subDec 0x00 0x01 true, sumRow subDec 0x46 0x12 true, sumRow subDec 0x40 0x13 true,
      sumRow subDec 0x32 0x02 false, sumRow subDec 0x10 0x0A true] =
    [(0x99, 1, 0, 0, 0), (0x34, 0, 0, 0, 1), (0x27, 0, 0, 0, 1), (0x29, 0, 0, 0, 1), (0x00, 0, 0, 0, 1)] := by decide

theorem test_s2_adc :
    aluOf (.adcImm 0x01#8) (regs 0x7F 0 0 0xFF (fl 0 0 0 1 0 0)) [] = some (0x80#8, fl 1 1 0 1 0 0) := by decide

/-- V43 as an instruction: D selects decimal addition and is kept. -/
theorem test_v43_adc_decimal :
    aluOf (.adcZp 0x20#8) (regs 0x99 0 0 0xFF (fl 0 0 1 0 0 0)) [(0x20, 1#8)] = some (0#8, fl 1 0 1 0 0 1) := by decide

theorem test_v41c_sbc :
    aluOf (.sbcImm 0x01#8) (regs 0x80 0 0 0xFF (fl 0 0 0 1 0 1)) [] = some (0x7F#8, fl 0 1 0 1 0 1) := by decide

/-! ## Logic, compare, bit test (V50 to V65) -/

theorem test_v50_and :
    aluOf (.andImm 0x0F#8) (regs 0xF0 0 0 0xFF (fl 1 0 0 0 0 0)) [] = some (0#8, fl 0 0 0 0 1 0) := by decide

theorem test_v52_ora :
    aluOf (.oraImm 0x80#8) (regs 1 0 0 0xFF (fl 0 0 0 0 1 0)) [] = some (0x81#8, fl 1 0 0 0 0 0) := by decide

theorem test_v54_eor :
    aluOf (.eorImm 0xFF#8) (regs 0xAA 0 0 0xFF (fl 1 0 0 0 1 0)) [] = some (0x55#8, fl 0 0 0 0 0 0) := by decide

theorem test_v56_cmp_equal :
    aluOf (.cmpImm 0x40#8) (regs 0x40 0 0 0xFF (fl 1 1 0 0 0 0)) [] = some (0x40#8, fl 0 1 0 0 1 1) := by decide

theorem test_v60_cmp_ignores_d :
    aluOf (.cmpImm 0x09#8) (regs 0x10 0 0 0xFF (fl 0 0 1 0 0 0)) [] = some (0x10#8, fl 0 0 1 0 0 1) := by decide

theorem test_v61_cpx :
    aluOf (.cpxImm 0x06#8) (regs 0 5 0 0xFF (fl 0 0 0 0 0 1)) [] = some (0#8, fl 1 0 0 0 0 0) := by decide

theorem test_v62_cpy :
    aluOf (.cpyImm 0x01#8) (regs 0 0 0x10 0xFF (fl 1 0 0 0 1 0)) [] = some (0#8, fl 0 0 0 0 0 1) := by decide

theorem test_v63_bit :
    aluOf (.bitZp 0x10#8) (regs 1 0 0 0xFF (fl 0 0 0 0 0 0)) [(0x10, 0xC0#8)] = some (1#8, fl 1 1 0 0 1 0) := by decide

/-- A read of timer 1's low counter byte clears its flag. -/
theorem test_v65_bit_of_a_chip :
    after (exec (.bitAbs 0x9114#16)
      { machine (regs 1 0 0 0xFF (fl 0 0 0 1 0 0)) [] with viaA := { Via.atReset with ifr := 0x40, t1c := 0x00C0 } })
      (fun t => (t.regs.p, t.viaA.ifr, t.latch)) = some (fl 1 1 0 1 1 0, 0#7, 0xC0#8) := by decide

/-! ## Increments, decrements, shifts (V70 to V89b) -/

theorem test_v70_inc_wraps :
    cellOf 0x20#16 (.incZp 0x20#8) (regs 0 0 0 0xFF (fl 0 1 0 0 0 1)) [(0x20, 0xFF#8)] =
      some (0#8, regs 0 0 0 0xFF (fl 0 1 0 0 1 1)) := by decide

theorem test_v72_dec_wraps :
    cellOf 0x20#16 (.decZp 0x20#8) (regs 0 0 0 0xFF (fl 0 0 0 0 0 0)) [] =
      some (0xFF#8, regs 0 0 0 0xFF (fl 1 0 0 0 0 0)) := by decide

/-- V79: after the three fetch clocks, four more. -/
theorem test_v79_inc_abx :
    after (exec (.incAbx 0x10FF#16) (machine (regs 0 1 0 0xFF (fl 0 0 0 0 0 0)) [(0x1100, 0x41#8)]))
      (fun t => (t.mem, t.clock)) = some ([(0x1100, 0x42#8)], 4) := by decide

theorem test_v75_inx :
    regsOf .inx (regs 0 0xFF 0 0xFF (fl 1 0 0 0 0 0)) [] = some (regs 0 0 0 0xFF (fl 0 0 0 0 1 0)) := by decide

theorem test_v76_iny :
    regsOf .iny (regs 0 0 0x7F 0xFF (fl 0 0 0 0 0 0)) [] = some (regs 0 0 0x80 0xFF (fl 1 0 0 0 0 0)) := by decide

theorem test_v77_dex :
    regsOf .dex (regs 0 0 0 0xFF (fl 0 0 0 0 1 0)) [] = some (regs 0 0xFF 0 0xFF (fl 1 0 0 0 0 0)) := by decide

theorem test_v78_dey :
    regsOf .dey (regs 0 0 1 0xFF (fl 0 0 0 0 0 0)) [] = some (regs 0 0 0 0xFF (fl 0 0 0 0 1 0)) := by decide

theorem test_v80_asl :
    aluOf .aslAcc (regs 0x80 0 0 0xFF (fl 0 0 0 0 0 0)) [] = some (0#8, fl 0 0 0 0 1 1) := by decide

theorem test_v83_lsr :
    aluOf .lsrAcc (regs 0x01 0 0 0xFF (fl 1 0 0 0 0 0)) [] = some (0#8, fl 0 0 0 0 1 1) := by decide

theorem test_v85_rol :
    aluOf .rolAcc (regs 0x80 0 0 0xFF (fl 0 0 0 0 0 1)) [] = some (1#8, fl 0 0 0 0 0 1) := by decide

theorem test_v88_ror :
    aluOf .rorAcc (regs 0 0 0 0xFF (fl 0 0 0 0 1 1)) [] = some (0x80#8, fl 1 0 0 0 0 0) := by decide

theorem test_v89a_asl_memory :
    cellOf 0x20#16 (.aslZp 0x20#8) (regs 0 0 0 0xFF (fl 0 1 0 0 0 1)) [(0x20, 0x40#8)] =
      some (0x80#8, regs 0 0 0 0xFF (fl 1 1 0 0 0 0)) := by decide

theorem test_v89b_ror_memory :
    cellOf 0x20#16 (.rorZp 0x20#8) (regs 0 0 0 0xFF (fl 0 0 0 0 0 1)) [(0x20, 2#8)] =
      some (0x81#8, regs 0 0 0 0xFF (fl 1 0 0 0 0 0)) := by decide

/-! ## Branches (V90 to V99): the new PC and the clocks of a whole step -/

/-- PC and the clocks after a two-byte instruction at `pc`. -/
def branchOf (pc : Nat) (op d : Byte) (p : Flags) : Option (Word × Nat) :=
  after (step (machine ⟨0, 0, 0, 0xFF, BitVec.ofNat 16 pc, p⟩ (memPut [(pc, op)] (pc + 1) d)))
    fun t => (t.regs.pc, t.clock)

theorem test_v90_bcc : branchOf 0x1000 0x90 0x05 (fl 0 0 0 1 0 0) = some (0x1007#16, 3) := by decide

theorem test_v91_bcs_not_taken : branchOf 0x1000 0xB0 0x05 (fl 0 0 0 1 0 0) = some (0x1002#16, 2) := by decide

theorem test_v92_beq_on_itself : branchOf 0x1000 0xF0 0xFE (fl 0 0 0 1 1 0) = some (0x1000#16, 3) := by decide

theorem test_v93_bne_far_back : branchOf 0x1000 0xD0 0x80 (fl 0 0 0 1 0 0) = some (0x0F82#16, 4) := by decide

theorem test_v94_bmi_page_cross : branchOf 0x10F0 0x30 0x7F (fl 1 0 0 1 0 0) = some (0x1171#16, 4) := by decide

theorem test_v95_bpl : branchOf 0x1000 0x10 0x00 (fl 0 0 0 1 0 0) = some (0x1002#16, 3) := by decide

theorem test_v96_bvc_wraps : branchOf 0xFFF0 0x50 0x10 (fl 0 0 0 1 0 0) = some (0x0002#16, 4) := by decide

theorem test_v97_bvs : branchOf 0x1000 0x70 0x02 (fl 0 1 0 1 0 0) = some (0x1004#16, 3) := by decide

/-! ## Calls, returns, flags, BRK and RTI (V103 to V121) -/

theorem test_v103_jsr :
    after (step (at1000 0 0 0 0xFF (fl 0 0 0 1 0 0) [(0x1000, 0x20#8), (0x1002, 0x20#8)]))
      (fun t => (t.regs, cell t.mem 0x01FF#16, cell t.mem 0x01FE#16, t.clock)) =
      some (⟨0, 0, 0, 0xFD, 0x2000#16, fl 0 0 0 1 0 0⟩, 0x10#8, 0x02#8, 6) := by decide

theorem test_v108_jsr_over_its_own_bytes :
    after (step (machine ⟨0, 0, 0, 0xFF, 0x01FD#16, fl 0 0 0 1 0 0⟩ [(0x01FD, 0x20#8), (0x01FF, 0x20#8)]))
      (fun t => t.regs.pc) = some 0x0100#16 := by decide

theorem test_v106_rts_wraps :
    regsOf .rts (regs 0 0 0 0xFD (fl 0 0 0 1 0 0)) [(0x01FE, 0xFF#8), (0x01FF, 0xFF#8)] =
      some ⟨0, 0, 0, 0xFF, 0x0000#16, fl 0 0 0 1 0 0⟩ := by decide

theorem test_v107_rts_stack_wraps :
    regsOf .rts (regs 0 0 0 0xFF (fl 0 0 0 1 0 0)) [(0x0100, 0x33#8), (0x0101, 0x12#8)] =
      some ⟨0, 0, 0, 0x01, 0x1234#16, fl 0 0 0 1 0 0⟩ := by decide

theorem test_v110_flag_instructions :
    [Instr.clc, .cli, .cld, .clv].map (fun i => (regsOf i (regs 0 0 0 0xFF (fl 1 1 1 1 1 1)) []).map Regs.p) =
      [some (fl 1 1 1 1 1 0), some (fl 1 1 1 0 1 1), some (fl 1 1 0 1 1 1), some (fl 1 0 1 1 1 1)] ∧
    [Instr.sec, .sei, .sed, .nop].map (fun i => (regsOf i (regs 0 0 0 0xFF (fl 0 0 0 0 0 0)) []).map Regs.p) =
      [some (fl 0 0 0 0 0 1), some (fl 0 0 0 1 0 0), some (fl 0 0 1 0 0 0), some (fl 0 0 0 0 0 0)] := by decide

theorem test_v119_brk :
    after (step (at1000 0 0 0 0xFF (fl 1 1 1 0 1 1) [(0xFFFE, 0x72#8), (0xFFFF, 0xFF#8)]))
      (fun t => (t.regs, t.mem.take 3, t.clock)) =
      some (⟨0, 0, 0, 0xFC, 0xFF72#16, fl 1 1 1 1 1 1⟩, [(0x01FD, 0xFB#8), (0x01FE, 0x02#8), (0x01FF, 0x10#8)], 7) := by
  decide

theorem test_v120_rti :
    regsOf .rti (regs 0 0 0 0xFC (fl 1 1 1 1 1 1)) [(0x01FD, 0x30#8), (0x01FE, 0x02#8), (0x01FF, 0x10#8)] =
      some ⟨0, 0, 0, 0xFF, 0x1002#16, fl 0 0 0 0 0 0⟩ := by decide

theorem test_v121_rti_all_flags :
    regsOf .rti (regs 0 0 0 0xFC (fl 0 0 0 0 0 0)) [(0x01FD, 0xCF#8), (0x01FF, 0xE0#8)] =
      some ⟨0, 0, 0, 0xFF, 0xE000#16, fl 1 1 1 1 1 1⟩ := by decide

/-! ## Interrupts and reset (V125 to V129d, V165) -/

/-- The machine of V125. -/
def v125 (i : Nat) : State :=
  { machine ⟨0, 0, 0, 0xFF, 0x1234#16, fl 0 1 1 i 0 1⟩ [(0x1234, 0xEA#8), (0xFFFB, 0xF0#8), (0xFFFF, 0xE0#8)] with
    viaA := { Via.atReset with ifr := 0x40, ier := 0x40 } }

theorem test_v125_irq :
    after (step (v125 0)) (fun t => (t.regs, t.mem.take 3, t.clock)) =
      some (⟨0, 0, 0, 0xFC, 0xE000#16, fl 0 1 1 1 0 1⟩, [(0x01FD, 0x69#8), (0x01FE, 0x34#8), (0x01FF, 0x12#8)], 7) := by
  decide

theorem test_v126_irq_masked :
    after (step (v125 1)) (fun t => (t.regs.pc, t.regs.s, t.clock)) = some (0x1235#16, 0xFF#8, 2) := by decide

theorem test_v127_nmi :
    after (step { v125 1 with nmiPending := true, viaA := Via.atReset })
      (fun t => (t.regs, cell t.mem 0x01FD#16, t.nmiPending)) =
      some (⟨0, 0, 0, 0xFC, 0xF000#16, fl 0 1 1 1 0 1⟩, 0x6D#8, false) := by decide

theorem test_v128_nmi_before_irq :
    after (step { v125 0 with nmiPending := true }) (fun t => t.regs.pc) = some 0xF000#16 := by decide

/-- BRK at `$1000` whose third cycle sees an NMI edge (V129d). -/
def v129d (hijack : Bool) : State :=
  { at1000 0 0 0 0xFF (fl 0 0 0 0 0 0) [(0xFFFB, 0xF0#8), (0xFFFF, 0xE0#8)] with
    cfg := { Config.atReset with brkHijack := hijack }
    inputs := [HostInputs.low, HostInputs.low, { HostInputs.low with nmi := true }] }

theorem test_v129d_hijack :
    after (step (v129d true)) (fun t => (t.regs.pc, cell t.mem 0x01FD#16, t.nmiPending)) =
      some (0xF000#16, 0x30#8, false) := by decide

theorem test_v129d_no_hijack :
    after (step (v129d false)) (fun t => (t.regs.pc, t.nmiPending)) = some (0xE000#16, true) := by decide

theorem test_v165_reset_sequence :
    after (step { State.reset with mem := [(0xFFFC, 0x22#8), (0xFFFD, 0xFD#8)], latch := 0x5A })
      (fun t => (t.regs.pc, t.regs.p.i, t.latch, t.clock)) = some (0xFD22#16, true, 0xFD#8, 7) := by decide

/-! ## Bus (V149, V151, V154, V157 to V159) -/

/-- The dummy read of `STA $9100,X` clears chip A's timer 1 flag (R516). -/
theorem test_v149_sta_dummy_read :
    after (exec (.staAbx 0x9100#16)
      { machine (regs 0x55 0x14 0 0xFF (fl 0 0 0 1 0 0)) [] with viaA := { Via.atReset with ifr := 0x40 } })
      (fun t => (t.viaA.ifr, t.viaA.t1l)) = some (0#7, 0x0055#16) := by decide

theorem test_v149_lda_dummy_read_refused :
    refusalOf (exec (.ldaAbx 0x90FF#16) (machine (regs 0 0x15 0 0xFF (fl 0 0 0 1 0 0)) [])) =
      some (.unmodelledIoMirror 0x9014#16) := by decide

/-- `LDA $9800` at `$1010` after `STA $1000` wrote `$5A` (V151). -/
def v151 (onFetch : Bool) : State :=
  { machine ⟨0, 0, 0, 0xFF, 0x1010#16, fl 0 0 0 1 0 0⟩ [(0x1010, 0xAD#8), (0x1012, 0x98#8)] with
    cfg := { Config.atReset with latchOnFetch := onFetch }
    latch := 0x5A }

theorem test_v151_floatingbus :
    after (step (v151 false)) (fun t => t.regs.a) = some 0x5A#8 ∧
      after (step (v151 true)) (fun t => t.regs.a) = some 0x98#8 := by decide

theorem test_v154_colour_under_the_latch :
    after (busRead 0x9400#16 { machine (regs 0 0 0 0 (fl 0 0 0 0 0 0)) [(0x9400, 7#8)] with latch := 0xA0 }) Prod.fst =
      some 0xA7#8 := by decide

theorem test_v158_expansion :
    region Config.atReset 0x2000#16 = .absent ∧ region { Config.atReset with expansion := .k8 } 0x2000#16 = .ram := by
  decide

/-! ## Timer chips (V200 to V221) -/

/-- The chip after a write, unchanged if refused. -/
def written (r : BitVec 4) (v : Byte) (c : Via) : Via := (after (viaWrite r v c) id).getD c

/-- Timer 1 loaded with 3 in free-running mode (V200), `n` clocks on from the end of clock 0. -/
def v200 (n : Nat) : Via :=
  viaCycles (List.replicate (n + 1) PortInputs.low) (written 5 0x00 (written 4 0x03 (written 11 0x40 Via.atReset)))

theorem test_v200_free_running :
    (List.range 5).map (fun n => ((v200 n).t1c, (v200 n).ifr)) =
      [(3#16, 0#7), (2#16, 0#7), (1#16, 0#7), (0#16, 0#7), (3#16, 0x40#7)] := by decide

/-- Timer 1 loaded with 2 in one-shot mode (V201). -/
def v201 (n : Nat) : Via :=
  viaCycles (List.replicate (n + 1) PortInputs.low) (written 5 0x00 (written 4 0x02 Via.atReset))

theorem test_v201_one_shot :
    (List.range 5).map (fun n => ((v201 n).t1c, (v201 n).ifr, (v201 n).t1Armed)) =
      [(2#16, 0#7, true), (1#16, 0#7, true), (0#16, 0#7, true), (0xFFFF#16, 0x40#7, false),
        (0xFFFE#16, 0x40#7, false)] := by decide

theorem test_v208_pb7_toggles :
    (List.range 9).map (fun n =>
      (viaCycles (List.replicate (n + 1) PortInputs.low)
        (written 5 0x00 (written 4 0x03 (written 11 0xC0 Via.atReset)))).pb7) =
      [false, false, false, false, true, true, true, true, false] := by decide

theorem test_v210_port_b :
    viaRead 0 { PortInputs.low with pb := 0x3C } { Via.atReset with ddrb := 0x0F, orb := 0xA5, ifr := 0x1F } =
      (0x35#8, { Via.atReset with ddrb := 0x0F, orb := 0xA5, ifr := 0x07 }) := by decide

theorem test_v212_latched_port_a :
    let c := viaCycle { PortInputs.low with pa := 0x5A } { Via.atReset with acr := 1, ca1Prev := true }
    (c.ifr, c.ila, (viaRead 15 PortInputs.low c).1, (viaRead 1 PortInputs.low c).2.ifr) =
      (0x02#7, 0x5A#8, 0x5A#8, 0#7) := by decide

theorem test_v215_flag_register :
    let c := { Via.atReset with ifr := 0x60, ier := 0x40 }
    ((viaRead 13 PortInputs.low c).1, (viaRead 13 PortInputs.low (written 13 0x40 c)).1) = (0xE0#8, 0x20#8) := by decide

theorem test_v217_enable_register :
    let c := written 14 0xC0 Via.atReset
    ((viaRead 14 PortInputs.low c).1, (viaRead 14 PortInputs.low (written 14 0x40 c)).1) = (0xC0#8, 0x80#8) := by decide

theorem test_v219_refused_modes :
    [viaWrite 11 0x04 Via.atReset, viaWrite 11 0x20 Via.atReset, viaWrite 12 0x08 Via.atReset].map refusalOf =
      [some .unmodelledShiftMode, some .unmodelledT2PulseCount, some .unmodelledHandshake] := by decide

/-! ## Video/audio chip (V230 to V257) -/

/-- The chip after a reset with these registers. -/
def chip (g : VicRegs) : Vic := Vic.resetWith g 1

theorem test_v230_line_end :
    (List.range 3).map (fun n =>
      let c := rasterSteps Config.atReset n { chip VicRegs.zero with h := 70, v := 9 }
      (c.h, c.v)) = [(70, 9), (0, 9), (1, 10)] := by decide

theorem test_v233_raster_read :
    (vicRead 4 0 { chip VicRegs.zero with v := 11 }, vicRead 3 0 { chip VicRegs.zero with v := 11 }) =
      (0x05#8, 0x80#8) := by decide

theorem test_v235_interlace :
    refusalOf (vicWrite 0 0x85 (chip VicRegs.zero)) = some .unmodelledInterlace := by decide

/-- The registers of V237 and V241. -/
def v237 : VicRegs := { VicRegs.zero with r0 := 5, r1 := 0x10, r2 := 0x96, r5 := 0xF0 }

theorem test_v237_addresses :
    matrixBase v237 = 0x3E00#14 ∧ colourCellOf 0x3E00#14 = 0x9600#16 ∧
      videoToCpu (charAddress { chip v237 with code := 1, depth := 3 }) = 0x800B#16 ∧
      videoToCpu (charAddress { chip { v237 with r3 := 1 } with code := 1, depth := 3 }) = 0x8013#16 := by decide

theorem test_v239_video_to_processor :
    [0x0000#14, 0x1FFF#14, 0x2000#14, 0x3FFF#14].map videoToCpu = [0x8000#16, 0x9FFF#16, 0x0000#16, 0x1FFF#16] ∧
      colourCellOf 0x3E15#14 = 0x9615#16 := by decide

/-- The fetch states of V241 in cycles (1, 32) to (15, 32). -/
theorem test_v241_fetch_trace :
    (List.range 15).map (fun n =>
      ((List.range n).foldl (fun c _ => rasterStep Config.atReset (fetchStep Config.atReset [] 0 c))
        { chip { v237 with r2 := 0x82, r3 := 2 } with h := 1, v := 32 }).fs) =
      [.outsideMatrix, .inMatrixY, .inMatrixY, .inMatrixY, .inMatrixY, .matrixDelay1, .matrixDelay2, .matrixDelay3,
        .screenCode, .charData, .screenCode, .charData, .matrixEnd, .matrixLine, .matrixLine] := by decide

theorem test_v245_multicolour :
    let g := { VicRegs.zero with rE := 0x70, rF := 0x40 }
    chipPixels { chip g with pipe := 0x1B, pipeColour := 9, pixLeft := 2 } = [4, 4, 0, 0] ∧
      chipPixels { chip g with pipe := 0x1B, pipeColour := 9, pixLeft := 1 } = [1, 1, 7, 7] := by decide

theorem test_v250_tone_steps :
    (List.range 16).map (fun n => (toneClocks 0 (n + 1) ⟨0, 0⟩).sr) =
      [0x01, 0x03, 0x07, 0x0F, 0x1F, 0x3F, 0x7F, 0xFF, 0xFE, 0xFC, 0xF8, 0xF0, 0xE0, 0xC0, 0x80, 0x00] := by decide

theorem test_v253_noise_steps : [0x8000#16, 0x0008#16, 0x0001#16].map lfsrStep = [0x0001, 0x0011, 0x0002] := by decide

/-- `sample_ratio` 5/2: samples in cycles 3, 5, 8 and 10. -/
theorem test_v254_samples :
    let cfg := { Config.atReset with sampleRate := 2, pal := { Config.atReset.pal with clockHz := 5 } }
    (List.range 10).map (fun n =>
      (sampleStep cfg ((List.range n).foldl (fun c _ => (sampleStep cfg c).1) (chip VicRegs.zero))).2.isSome) =
      [false, false, true, false, true, false, false, true, false, true] := by decide

theorem test_v256_mix :
    mixedSample { Config.atReset with weight0 := 7 }
      { chip { VicRegs.zero with rE := 0x0F, rA := 0x80 } with voice0 := ⟨0, 1⟩ } = 105 := by decide

/-! ## Host calls (V261, V262) -/

theorem test_v261_uninitialised :
    refusalOf (stepCycle { State.reset with run := .uninitialized }) = some .notInitialised := by decide

/-- An `init` request with no ROM buffers. -/
def request : InitRequest where
  cfg := Config.atReset
  size := .fixed .none
  sniff := .address 0x1001
  charRom := none
  basicRom := none
  kernelRom := none
  cartridge := []
  ram := []
  latch := 0
  draw := ⟨⟨0, 0, 0, 0, false, false, false, false, false⟩, ⟨0, 0, 0, 0, 0, false, false, false, 0, 0⟩,
    ⟨0, 0, 0, 0, 0, false, false, false, 0, 0⟩⟩
  inp := HostInputs.low
  inputs := []
  snapshot := none

theorem test_v262_missing_rom : faultOf (initMachine request) = some .missingRom := by decide

/-! ## A state that meets the hypotheses of each statement -/

/-- A machine whose zero page holds a pointer at `$FF`, its high byte at `$00`. -/
def ptr : State := machine (regs 0x41 0x02 0x10 0xFF (fl 0 0 0 1 0 0)) [(0, 0x12#8), (0xFF, 0xF8#8)]

/-- `($FF),Y` crosses a page, from base `$12F8` to `$1308`. -/
theorem test_dummy_allowed_izy (always : Bool) : DummyAllowed always (.izy 0xFF#8) ptr := by
  have h : addressReads always (.izy 0xFF#8) ptr = [0x00FF#16, 0x0000#16, 0x1208#16] := by cases always <;> decide
  rw [DummyAllowed, h]
  intro a ha
  have : a = 0x00FF#16 ∨ a = 0x0000#16 ∨ a = 0x1208#16 := by simpa using ha
  rcases this with rfl | rfl | rfl <;> (unfold Accessible; decide)

/-- A zero-page form makes no dummy read that R516 could refuse. -/
theorem test_dummy_allowed_zp (always : Bool) (z : Byte) (s : State) : DummyAllowed always (.zp z) s :=
  fun _ h => by cases h

/-- An absolute form makes no dummy read. -/
theorem test_dummy_allowed_abs (always : Bool) (a : Word) (s : State) : DummyAllowed always (.abs a) s :=
  fun _ h => by cases h

theorem test_ready_ptr : Ready ptr := by unfold Ready; decide

theorem test_accessible_izy : Accessible ptr.cfg (targetOf (.izy 0xFF#8) ptr) := by unfold Accessible; decide

/-- The last chip register and the first and last addresses of the refused ranges' neighbours. -/
theorem test_accessible_boundaries :
    Accessible ptr.cfg 0x900F#16 ∧ Accessible ptr.cfg 0x9110#16 ∧ Accessible ptr.cfg 0x912F#16 ∧
      Accessible ptr.cfg 0x9400#16 ∧ Accessible ptr.cfg 0xFFFF#16 := by
  unfold Accessible; decide

theorem test_meets_LoadsWriteTheirRegister :
    ((Instr.ldaIzy 0xFF#8).shape = .read .lda (.izy 0xFF#8) ∧ (Instr.ldxZp 0xFF#8).shape = .read .ldx (.zp 0xFF#8) ∧
      (Instr.ldyAbs 0x900F#16).shape = .read .ldy (.abs 0x900F#16)) ∧
    (Instr.ldaImm 0#8).shape = .imm .lda 0#8 ∧ (Instr.ldxImm 0#8).shape = .imm .ldx 0#8 ∧
    (Instr.ldyImm 0#8).shape = .imm .ldy 0#8 ∧ Ready ptr ∧ DummyAllowed false (.izy 0xFF#8) ptr ∧
    Accessible ptr.cfg (targetOf (.izy 0xFF#8) ptr) :=
  ⟨⟨rfl, rfl, rfl⟩, rfl, rfl, rfl, test_ready_ptr, test_dummy_allowed_izy _, test_accessible_izy⟩

theorem test_meets_AdcSbcWriteTheAccumulator :
    (Instr.adcIzy 0xFF#8).shape = .read .adc (.izy 0xFF#8) ∧ (Instr.sbcIzy 0xFF#8).shape = .read .sbc (.izy 0xFF#8) ∧
    (Instr.adcImm 0#8).shape = .imm .adc 0#8 ∧ (Instr.sbcImm 0#8).shape = .imm .sbc 0#8 ∧ Ready ptr ∧
    DummyAllowed false (.izy 0xFF#8) ptr ∧ Accessible ptr.cfg (targetOf (.izy 0xFF#8) ptr) :=
  ⟨rfl, rfl, rfl, rfl, test_ready_ptr, test_dummy_allowed_izy _, test_accessible_izy⟩

theorem test_meets_LogicWritesTheAccumulator :
    (Instr.andIzy 0xFF#8).shape = .read .and (.izy 0xFF#8) ∧ (Instr.oraIzy 0xFF#8).shape = .read .ora (.izy 0xFF#8) ∧
    (Instr.eorIzy 0xFF#8).shape = .read .eor (.izy 0xFF#8) ∧ (Instr.andImm 0#8).shape = .imm .and 0#8 ∧
    (Instr.oraImm 0#8).shape = .imm .ora 0#8 ∧ (Instr.eorImm 0#8).shape = .imm .eor 0#8 ∧ Ready ptr ∧
    DummyAllowed false (.izy 0xFF#8) ptr ∧ Accessible ptr.cfg (targetOf (.izy 0xFF#8) ptr) :=
  ⟨rfl, rfl, rfl, rfl, rfl, rfl, test_ready_ptr, test_dummy_allowed_izy _, test_accessible_izy⟩

theorem test_meets_ComparesWriteFlagsOnly :
    (Instr.cmpIzy 0xFF#8).shape = .read .cmp (.izy 0xFF#8) ∧ (Instr.cpxAbs 0x900F#16).shape = .read .cpx (.abs 0x900F#16) ∧
    (Instr.cpyAbs 0x900F#16).shape = .read .cpy (.abs 0x900F#16) ∧ (Instr.cmpImm 0#8).shape = .imm .cmp 0#8 ∧
    (Instr.cpxImm 0#8).shape = .imm .cpx 0#8 ∧ (Instr.cpyImm 0#8).shape = .imm .cpy 0#8 ∧ Ready ptr ∧
    DummyAllowed false (.abs 0x900F#16) ptr ∧ Accessible ptr.cfg (targetOf (.abs 0x900F#16) ptr) :=
  ⟨rfl, rfl, rfl, rfl, rfl, rfl, test_ready_ptr, test_dummy_allowed_abs _ _ _, by unfold Accessible; decide⟩

theorem test_meets_BitTestsTheOperand :
    (Instr.bitZp 0xFF#8).shape = .read .bit (.zp 0xFF#8) ∧ (Instr.bitAbs 0x9114#16).shape = .read .bit (.abs 0x9114#16) ∧
    Ready ptr ∧ DummyAllowed false (.abs 0x9114#16) ptr ∧ Accessible ptr.cfg (targetOf (.abs 0x9114#16) ptr) :=
  ⟨rfl, rfl, test_ready_ptr, test_dummy_allowed_abs _ _ _, by unfold Accessible; decide⟩

/-- Writes to RAM, ROM, colour RAM, an absent address, a video register and timer-chip registers with and without refused
values. -/
theorem test_write_allowed :
    WriteAllowed ptr.cfg 0x1308#16 0x41#8 ∧ WriteAllowed ptr.cfg 0xFFFF#16 0x41#8 ∧ WriteAllowed ptr.cfg 0x97FF#16 0x41#8 ∧
    WriteAllowed ptr.cfg 0x9800#16 0x41#8 ∧ WriteAllowed ptr.cfg 0x9000#16 0x7F#8 ∧ WriteAllowed ptr.cfg 0x911B#16 0xC3#8 ∧
    WriteAllowed ptr.cfg 0x912C#16 0xEE#8 := by
  refine ⟨trivial, trivial, trivial, trivial, ?_, ?_, ?_⟩
  · show ¬(registerIndex 0x9000#16 = 0#4 ∧ bitOf 0x7F#8 7 = true); decide
  · show (registerIndex 0x911B#16 = 11#4 → acrRefusal 0xC3#8 = none) ∧ (registerIndex 0x911B#16 = 12#4 → pcrRefusal 0xC3#8 = none)
    decide
  · show (registerIndex 0x912C#16 = 11#4 → acrRefusal 0xEE#8 = none) ∧ (registerIndex 0x912C#16 = 12#4 → pcrRefusal 0xEE#8 = none)
    decide

theorem test_meets_StoresWriteTheirAddress :
    (Instr.staIzy 0xFF#8).shape = .store .sta (.izy 0xFF#8) ∧ (Instr.stxAbs 0x97FF#16).shape = .store .stx (.abs 0x97FF#16) ∧
    (Instr.styAbs 0x97FF#16).shape = .store .sty (.abs 0x97FF#16) ∧ Memory.wf ptr.mem = true ∧ Ready ptr ∧
    DummyAllowed true (.izy 0xFF#8) ptr ∧ WriteAllowed ptr.cfg (targetOf (.izy 0xFF#8) ptr) ptr.regs.a ∧
    WriteAllowed ptr.cfg (targetOf (.abs 0x97FF#16) ptr) ptr.regs.x ∧
    WriteAllowed ptr.cfg (targetOf (.abs 0x97FF#16) ptr) ptr.regs.y :=
  ⟨rfl, rfl, rfl, by decide, test_ready_ptr, test_dummy_allowed_izy _, trivial, trivial, trivial⟩

/-- A read-modify-write of RAM has no stored register; one of `$9002` has, and no refused value. -/
theorem test_modify_allowed (f : Byte → Byte) :
    (∀ v, storedRegister ptr (targetOf (.zp 0xFF#8) ptr) = some v →
      WriteAllowed ptr.cfg (targetOf (.zp 0xFF#8) ptr) v ∧ WriteAllowed ptr.cfg (targetOf (.zp 0xFF#8) ptr) (f v)) ∧
    storedRegister ptr (targetOf (.abs 0x9002#16) ptr) = some 0#8 ∧
    ∀ v, storedRegister ptr (targetOf (.abs 0x9002#16) ptr) = some v →
      WriteAllowed ptr.cfg (targetOf (.abs 0x9002#16) ptr) v ∧ WriteAllowed ptr.cfg (targetOf (.abs 0x9002#16) ptr) (f v) := by
  refine ⟨fun v h => ?_, rfl, fun v h => ⟨?_, ?_⟩⟩
  · cases h
  · show ¬(registerIndex 0x9002#16 = 0#4 ∧ _); rintro ⟨h, -⟩; revert h; decide
  · show ¬(registerIndex 0x9002#16 = 0#4 ∧ _); rintro ⟨h, -⟩; revert h; decide

theorem test_meets_IncDecModifyMemory :
    (Instr.incAbs 0x9002#16).shape = .modify .inc (.abs 0x9002#16) ∧ (Instr.decZp 0xFF#8).shape = .modify .dec (.zp 0xFF#8) ∧
    Memory.wf ptr.mem = true ∧ Ready ptr ∧ DummyAllowed true (.abs 0x9002#16) ptr ∧
    Accessible ptr.cfg (targetOf (.abs 0x9002#16) ptr) ∧
    ∀ v, storedRegister ptr (targetOf (.abs 0x9002#16) ptr) = some v →
      WriteAllowed ptr.cfg (targetOf (.abs 0x9002#16) ptr) v ∧ WriteAllowed ptr.cfg (targetOf (.abs 0x9002#16) ptr) (v + 1) :=
  ⟨rfl, rfl, by decide, test_ready_ptr, test_dummy_allowed_abs _ _ _, by unfold Accessible; decide,
    (test_modify_allowed (· + 1)).2.2⟩

theorem test_meets_ShiftsModifyMemory :
    (Instr.aslAbs 0x9002#16).shape = .modify .asl (.abs 0x9002#16) ∧ (Instr.lsrZp 0xFF#8).shape = .modify .lsr (.zp 0xFF#8) ∧
    (Instr.rolZp 0xFF#8).shape = .modify .rol (.zp 0xFF#8) ∧ (Instr.rorZp 0xFF#8).shape = .modify .ror (.zp 0xFF#8) ∧
    Memory.wf ptr.mem = true ∧ Ready ptr ∧ DummyAllowed true (.zp 0xFF#8) ptr ∧
    Accessible ptr.cfg (targetOf (.zp 0xFF#8) ptr) ∧
    ∀ v, storedRegister ptr (targetOf (.zp 0xFF#8) ptr) = some v →
      WriteAllowed ptr.cfg (targetOf (.zp 0xFF#8) ptr) v ∧ WriteAllowed ptr.cfg (targetOf (.zp 0xFF#8) ptr) (v >>> 1) :=
  ⟨rfl, rfl, rfl, rfl, by decide, test_ready_ptr, test_dummy_allowed_zp _ _ _, by unfold Accessible; decide,
    (test_modify_allowed (· >>> 1)).1⟩

/-- For the transfers, the index steps, the accumulator shifts, the flag instructions and `NOP`, the stack instructions, `BRK`
and `RTI`: PC in RAM, and PC at the last address. -/
theorem test_meets_the_implied_instructions :
    Memory.wf ptr.mem = true ∧ Ready ptr ∧ Accessible ptr.cfg ptr.regs.pc ∧
      Accessible ptr.cfg { ptr.regs with pc := 0xFFFF#16 }.pc := by
  refine ⟨by decide, test_ready_ptr, ?_⟩
  unfold Accessible; decide

theorem test_meets_TransfersCopyARegister : Ready ptr ∧ Accessible ptr.cfg ptr.regs.pc :=
  ⟨test_ready_ptr, test_meets_the_implied_instructions.2.2.1⟩

theorem test_meets_IndexRegistersStepByOne : Ready ptr ∧ Accessible ptr.cfg ptr.regs.pc :=
  test_meets_TransfersCopyARegister

theorem test_meets_AccumulatorShifts : Ready ptr ∧ Accessible ptr.cfg ptr.regs.pc := test_meets_TransfersCopyARegister

theorem test_meets_FlagInstructionsWriteOneFlag : Ready ptr ∧ Accessible ptr.cfg ptr.regs.pc :=
  test_meets_TransfersCopyARegister

theorem test_meets_PushesStoreOneByte : Memory.wf ptr.mem = true ∧ Ready ptr ∧ Accessible ptr.cfg ptr.regs.pc :=
  ⟨by decide, test_meets_TransfersCopyARegister⟩

theorem test_meets_PullsLoadOneByte : Ready ptr ∧ Accessible ptr.cfg ptr.regs.pc := test_meets_TransfersCopyARegister

/-- The eight branches by shape; BCC is taken and not taken, and taken to another page (V93). -/
theorem test_meets_BranchesAreTakenOnTheirFlag :
    [Instr.bcc 0x80#8, .bcs 0x80#8, .beq 0x80#8, .bne 0x80#8, .bmi 0x80#8, .bpl 0x80#8, .bvc 0x80#8, .bvs 0x80#8].map Instr.shape =
      [BranchOp.bcc, .bcs, .beq, .bne, .bmi, .bpl, .bvc, .bvs].map (Shape.branch · 0x80#8) ∧
    (!ptr.regs.p.c) = true ∧ (!(fl 0 0 0 0 0 1).c) = false ∧ Ready ptr ∧ Accessible ptr.cfg ptr.regs.pc ∧
    pageCrossed ptr.regs.pc (branchTarget ptr.regs.pc 0x80#8) = true ∧
    pageCrossed ptr.regs.pc (branchTarget ptr.regs.pc 0x7F#8) = false ∧
    Accessible ptr.cfg (branchUnfixed ptr.regs.pc 0x80#8) := by
  refine ⟨by decide, by decide, by decide, test_ready_ptr, test_meets_the_implied_instructions.2.2.1, by decide, by decide, ?_⟩
  unfold Accessible; decide

/-- The pointer at the end of a page: its high byte comes from `$1000`. -/
theorem test_meets_JumpsLoadThePc :
    Ready ptr ∧ Accessible ptr.cfg 0x10FF#16 ∧
      Accessible ptr.cfg (wordOf (hiByte 0x10FF#16) (loByte 0x10FF#16 + 1)) := by
  refine ⟨test_ready_ptr, ?_⟩
  unfold Accessible; decide

theorem test_meets_JsrPushesTheReturnAddress :
    Memory.wf ptr.mem = true ∧ Ready ptr ∧ Accessible ptr.cfg ptr.regs.pc := test_meets_PushesStoreOneByte

/-- The stack pointer wraps: the pulled address is `$1234`. -/
theorem test_meets_RtsReturnsPastThePulledAddress :
    let s := machine (regs 0 0 0 0xFF (fl 0 0 0 1 0 0)) [(0x0100, 0x33#8), (0x0101, 0x12#8)]
    Ready s ∧ Accessible s.cfg s.regs.pc ∧
      Accessible s.cfg (wordOf (cell s.mem (stackAddr (s.regs.s + 2))) (cell s.mem (stackAddr (s.regs.s + 1)))) := by
  refine ⟨?_, ?_, ?_⟩ <;> first | (unfold Ready; decide) | (unfold Accessible; decide)

/-- BRK from its second cycle on, with and without an NMI edge that `brk_hijack` takes. -/
theorem test_meets_BrkEntersThroughItsVector :
    (∀ s, s = v129d true ∨ s = v129d false → Memory.wf s.mem = true ∧ Ready s ∧ Accessible s.cfg s.regs.pc) ∧
      ((v129d true).cfg.brkHijack && (inputsAfter 4 (v129d true)).nmiPending) = true ∧
      ((v129d false).cfg.brkHijack && (inputsAfter 4 (v129d false)).nmiPending) = false := by
  refine ⟨?_, by decide, by decide⟩
  rintro s (rfl | rfl) <;> refine ⟨by decide, ?_, ?_⟩ <;> first | (unfold Ready; decide) | (unfold Accessible; decide)

theorem test_meets_RtiRestoresFlagsAndPc : Ready ptr ∧ Accessible ptr.cfg ptr.regs.pc :=
  test_meets_TransfersCopyARegister

/-- V125, and the same machine with `brk_hijack` and an NMI edge in the sequence's fifth clock. -/
theorem test_meets_IrqIsTakenAtABoundary :
    let h : State :=
      { v125 0 with
        cfg := { Config.atReset with brkHijack := true }
        inputs := List.replicate 4 HostInputs.low ++ [{ HostInputs.low with nmi := true }] }
    (∀ s, s = v125 0 ∨ s = h → s.run ≠ .uninitialized ∧ s.seq = none ∧ nmiSeen s = false ∧ irqLine s = true ∧
      s.regs.p.i = false ∧ Memory.wf s.mem = true ∧ Ready s ∧ Accessible s.cfg s.regs.pc) ∧
    (h.cfg.brkHijack && (inputsAfter 5 h).nmiPending) = true := by
  intro h
  refine ⟨?_, by decide⟩
  rintro s (rfl | rfl) <;> refine ⟨by decide, rfl, by decide, by decide, by decide, by decide, ?_, ?_⟩ <;>
    first | (unfold Ready; decide) | (unfold Accessible; decide)

/-- A pending NMI, and an edge in the boundary's own clock. -/
theorem test_meets_NmiIsTakenBeforeEverything :
    ∀ s, s = { v125 0 with nmiPending := true } ∨ s = { v125 1 with inputs := [{ HostInputs.low with nmi := true }] } →
      s.run ≠ .uninitialized ∧ s.seq = none ∧ nmiSeen s = true ∧ Memory.wf s.mem = true ∧ Ready s ∧
        Accessible s.cfg s.regs.pc := by
  rintro s (rfl | rfl) <;> refine ⟨by decide, rfl, by decide, by decide, ?_, ?_⟩ <;>
    first | (unfold Ready; decide) | (unfold Accessible; decide)

/-- A clock of each kind that goes on, with a rising edge; and a line held asserted. -/
theorem test_meets_NmiIsEdgeSensitive :
    (∀ act ∈ [NmiAct.keep, .enter, .hijack],
      ∃ o, clock .none act { ptr with inputs := [{ HostInputs.low with nmi := true }] } = .next o) ∧
    ∃ s : State, s.nmiPrev = true ∧ s.inp.nmi = true ∧ s.inputs.length = 2 ∧ ∀ i ∈ s.inputs, i.nmi = true := by
  refine ⟨fun act h => next_of_isNext (by revert act; decide), { ptr with
    nmiPrev := true
    inp := { HostInputs.low with nmi := true }
    inputs := List.replicate 2 { HostInputs.low with nmi := true } }, rfl, rfl, rfl, ?_⟩
  intro i hi
  rw [List.eq_of_mem_replicate hi]

theorem test_meets_DecimalArithmeticOnBcd : (0 : Nat) < 100 ∧ (99 : Nat) < 100 := by decide

theorem test_meets_DecodeInvertsEncode :
    decode [0x8D#8, 0xFF#8, 0x1E#8, 0x02#8] = .ok (.staAbs 0x1EFF#16, [0x02#8]) := by decide

/-- `NOP` at `$1000`, no interrupt recognised. -/
theorem test_at_instruction : AtInstruction ptr := ⟨by decide, rfl, by decide, Or.inl (by decide)⟩

/-- An undocumented opcode under PC; and one read from the open bus. -/
theorem test_meets_UndocumentedOpcodesAreRefused :
    let s := at1000 0 0 0 0xFF (fl 0 0 0 0 0 0) [(0x1000, 0xFF#8)]
    let floating := { machine (regs 0 0 0 0xFF (fl 0 0 0 0 0 0)) [] with
      regs := { regs 0 0 0 0xFF (fl 0 0 0 0 0 0) with pc := 0x9800#16 }, latch := 0xFF#8 }
    (AtInstruction s ∧ Ready s ∧ isMemory s.cfg s.regs.pc = true ∧ (findRow (cell s.mem s.regs.pc)).isNone = true) ∧
    AtInstruction floating ∧ ∃ o, clock (.fetch floating.regs.pc) .keep floating = .next o ∧ (findRow o.1.byte).isNone = true := by
  refine ⟨⟨⟨by decide, rfl, by decide, Or.inl (by decide)⟩, ?_, by decide, by decide⟩,
    ⟨by decide, rfl, by decide, Or.inl (by decide)⟩, _, rfl, by decide⟩
  unfold Ready; decide

/-- `LDA $1000` whose operand bytes stand past the end of the address space (V15), with an IRQ that I masks. -/
theorem test_meets_StepRunsTheDecodedInstruction :
    let s : State :=
      { machine ⟨0, 0, 0, 0xFF, 0xFFFE#16, fl 0 0 0 1 0 0⟩ [(0, 0x10#8), (0xFFFE, 0xAD#8)] with
        viaA := { Via.atReset with ifr := 0x40, ier := 0x40 } }
    AtInstruction s ∧ Ready s ∧ InstrAtPc (.ldaAbs 0x1000#16) s := by
  refine ⟨⟨by decide, rfl, by decide, Or.inr rfl⟩, by unfold Ready; decide, ?_⟩
  intro k v h
  have hk : k < 3 := by
    by_contra hk
    rw [List.getElem?_eq_none (by simpa [encode] using hk)] at h
    cases h
  have : k = 0 ∨ k = 1 ∨ k = 2 := by omega
  rcases this with rfl | rfl | rfl <;> cases h <;> decide

/-- The small frame with `BRK` everywhere in RAM and the raster at `(h, v)`. -/
def small (h v : Nat) (pend : Bool) : State :=
  { machine ⟨0, 0, 0, 0xFF, 0x1000#16, fl 0 0 0 1 0 0⟩ [] with
    cfg := smallConfig
    vic := { Vic.resetWith VicRegs.zero 1 with h := h, v := v, vPend := pend } }

theorem test_small_invariant (h v : Nat) (pend : Bool) (hh : h < 2) (hv : v < 3) (hp : pend = true → h = 0) :
    Invariant (small h v pend) := by
  have hvia : Via.atReset.legal := ⟨by decide, by decide⟩
  refine ⟨test_wf_small, rfl, ?_, hvia, hvia, ?_, ?_⟩
  · intro a _
    show (0#8 : Byte) &&& 0xF0#8 = 0#8
    decide
  · refine ⟨hh, hv, hp, ?_, ?_, ?_, ?_, ?_, ?_⟩
    · intro hfs; cases hfs
    · rintro (hfs | hfs) <;> cases hfs
    · intro hfs; exact absurd rfl hfs
    · show 0 < 16 * smallConfig.voiceClockUnit; decide
    · intro _; show 0 < smallConfig.timing.clockHz; decide
    · show 1#16 ≠ 0#16; decide
  · intro f hf; cases hf

theorem test_meets_EveryStepKeepsTheInvariant : Invariant (small 1 2 false) ∧ ∃ t, step (small 1 2 false) = .next t :=
  ⟨test_small_invariant 1 2 false (by decide) (by decide) (by decide), next_of_isNext (by decide)⟩

/-- `STA $97FF` at a boundary. -/
def storing : State :=
  at1000 0x41 0 0 0xFF (fl 0 0 0 1 0 0) [(0x1000, 0x8D#8), (0x1001, 0xFF#8), (0x1002, 0x97#8)]

theorem test_meets_OnlyRamAndColourCellsChange :
    Memory.wf storing.mem = true ∧ (∃ t, step storing = .next t) ∧ region storing.cfg 0x9800#16 ≠ .ram ∧
      region storing.cfg 0x9800#16 ≠ .colour :=
  ⟨by decide, next_of_isNext (by decide), by decide, by decide⟩

/-- From a boundary, and from inside a sequence. -/
theorem test_meets_StepEndsAtABoundary :
    storing.seq = none ∧ (∃ t, step storing = .next t) ∧ ∃ t, step State.reset = .next t :=
  ⟨rfl, next_of_isNext (by decide), next_of_isNext (by decide)⟩

theorem test_meets_StepIsRepeatedCycles : (∃ t, step storing = .next t) ∧ ∃ t, step State.reset = .next t :=
  test_meets_StepEndsAtABoundary.2

/-- A write to RAM, to a video register and to a register of each timer chip, with each act; a read of each kind of address; a
fetch that is a `MemRead`, one that is not, and a clock without an access. -/
theorem test_meets_ClockOrder :
    ([0x1FFF#16, 0x900F#16, 0x9110#16, 0x912E#16].all fun a => isNext (clock (.write a 0x41#8) .keep ptr)) = true ∧
    (∃ o, clock (.write 0x01FF#16 0x41#8) .hijack ptr = .next o) ∧
    ([0x1FFF#16, 0x9400#16, 0x9800#16, 0x9004#16, 0x9114#16, 0x912F#16].all fun a =>
      isNext (clock (.read a) .keep ptr)) = true ∧
    (∃ o, clock (.fetch 0x9124#16) .enter ptr = .next o) ∧ isMemory ptr.cfg 0x9124#16 = false ∧
    (∃ o, clock (.fetch 0x1000#16) .keep ptr = .next o) ∧ isMemory ptr.cfg 0x1000#16 = true ∧
    ptr.cfg.latchOnFetch = false ∧ ∃ o, clock .none .keep ptr = .next o := by
  refine ⟨by decide, next_of_isNext (by decide), by decide, next_of_isNext (by decide), by decide,
    next_of_isNext (by decide), by decide, rfl, next_of_isNext (by decide)⟩

/-- Different draws for every register. -/
def someDraw : ResetDraw :=
  ⟨⟨1, 2, 3, 4, true, false, true, false, true⟩, ⟨5, 6, 7, 8, 9, true, true, true, 10, 11⟩,
    ⟨12, 13, 14, 15, 16, true, false, true, 17, 18⟩⟩

theorem test_meets_ResetSequence : ∃ u, hostReset someDraw ptr = .next u := next_of_isNext (by decide)

theorem test_meets_ResetValues : ∃ u, hostReset someDraw ptr = .next u := test_meets_ResetSequence

/-- A buffer of one byte's value. -/
def filled (n : Nat) (b : Byte) : List Byte := List.replicate n b

theorem test_whole_buffer (n : Nat) (b : Byte) : wholeBuffer n (some (filled n b)) = some (filled n b) := by
  simp [wholeBuffer, filled]

theorem test_filled_get (n k : Nat) (b : Byte) (h : k < n) : (filled n b)[k]? = some b := by
  simp [filled, h]

/-- A request with ROM buffers of the right sizes. -/
def wholeRequest (l : Sniff) : InitRequest :=
  { request with
    sniff := l
    charRom := some (filled 0x1000 0)
    basicRom := some (filled 0x2000 1)
    kernelRom := some (filled 0x2000 2) }

/-- A snapshot that names nothing. -/
def emptySnapshot : Snapshot := ⟨none, [], none, none, none, none, none, none⟩

theorem test_init_goes (l : Sniff) : ∃ s, initMachine (wholeRequest l) = .next s := by
  cases l <;>
    (simp only [initMachine, resolveSize, wholeRequest, request, test_whole_buffer, startState]; exact ⟨_, rfl⟩)

theorem test_meets_InitFailuresAndRefusals :
    ({ State.reset with run := .uninitialized } : State).run = .uninitialized ∧
    { request with size := .unrecognised }.size = .unrecognised ∧ request.size ≠ .unrecognised ∧
    (∀ l, request.charRom = some l → l.length ≠ 0x1000) ∧
    (∀ l, (wholeRequest l).sniff = l ∧ (wholeRequest l).size ≠ .unrecognised ∧
      (wholeRequest l).charRom = some (filled 0x1000 0) ∧ (filled 0x1000 0).length = 0x1000 ∧
      (wholeRequest l).basicRom = some (filled 0x2000 1) ∧ (filled 0x2000 1).length = 0x2000 ∧
      (wholeRequest l).kernelRom = some (filled 0x2000 2) ∧ (filled 0x2000 2).length = 0x2000 ∧
      (wholeRequest l).size = .fixed .none ∧ (wholeRequest l).snapshot = none) ∧
    snapshotRefusal emptySnapshot = none ∧
    snapshotRefusal { emptySnapshot with viaA := some { Via.atReset with acr := 0x04 } } = some .unmodelledShiftMode :=
  ⟨rfl, rfl, by decide, nofun, fun _ => ⟨rfl, nofun, rfl, List.length_replicate, rfl, List.length_replicate, rfl,
    List.length_replicate, rfl, rfl⟩, by decide, by decide⟩

/-- `auto` with and without a load address, and a snapshot without one. -/
theorem test_meets_InitFailuresAndRefusals_auto (e : Expansion) :
    let q := { wholeRequest (.address 0x1001) with size := .auto }
    let r := { wholeRequest (.noAddress e) with size := .auto, snapshot := some emptySnapshot }
    q.size = .auto ∧ q.sniff = .address 0x1001 ∧ q.sniff ≠ .failed ∧
      resolveSize q = .ok (Config.autoExpansionRule 0x1001) ∧ r.size = .auto ∧ r.sniff = .noAddress e ∧ r.sniff ≠ .failed ∧
      resolveSize r = .ok e ∧ r.snapshot ≠ none := ⟨rfl, rfl, nofun, rfl, rfl, rfl, nofun, rfl, nofun⟩

/-- The first or the last byte of each buffer. -/
theorem test_meets_InitPlacesTheRoms :
    (wholeRequest (.address 0x1001)).snapshot = none ∧ (wholeRequest (.address 0x1001)).charRom = some (filled 0x1000 0) ∧
    (wholeRequest (.address 0x1001)).basicRom = some (filled 0x2000 1) ∧
    (wholeRequest (.address 0x1001)).kernelRom = some (filled 0x2000 2) ∧
    (∃ s, initMachine (wholeRequest (.address 0x1001)) = .next s) ∧ (filled 0x1000 0)[0xFFF]? = some 0 ∧
    (filled 0x2000 1)[0]? = some 1 ∧ (filled 0x2000 2)[0x1FFF]? = some 2 ∧
    (wholeRequest (.address 0x1001)).cfg.programType ≠ .cartridge :=
  ⟨rfl, rfl, rfl, rfl, test_init_goes _, test_filled_get _ _ _ (by decide), test_filled_get _ _ _ (by decide),
    test_filled_get _ _ _ (by decide), by decide⟩

/-- A machine of size `e` with a cartridge image of two bytes. -/
def cartridgeRequest (e : Expansion) : InitRequest :=
  { wholeRequest (.address 0x1001) with
    cfg := { Config.atReset with programType := .cartridge }
    size := .fixed e
    cartridge := [0x41#8, 0x30#8] }

theorem test_cartridge_init_goes (e : Expansion) : ∃ s, initMachine (cartridgeRequest e) = .next s := by
  simp only [initMachine, resolveSize, cartridgeRequest, wholeRequest, request, test_whole_buffer, startState]
  exact ⟨_, rfl⟩

/-- Unexpanded, and with 32K, where block 5 is RAM where the image does not cover it: a covered and an uncovered cell. -/
theorem test_meets_InitPlacesTheRoms_cartridge :
    (cartridgeRequest .none).cfg.programType = .cartridge ∧ (cartridgeRequest .none).cartridge[1]? = some 0x30#8 ∧
    (cartridgeRequest .none).cartridge[0x1FFF]? = none ∧ (∃ s, initMachine (cartridgeRequest .none) = .next s) ∧
    (cartridgeRequest .k32).size = .fixed .k32 ∧ (cartridgeRequest .k32).cfg.programType = .cartridge ∧
    (cartridgeRequest .k32).cartridge[1]? = some 0x30#8 ∧ (cartridgeRequest .k32).cartridge[2]? = none ∧
    ∃ s, initMachine (cartridgeRequest .k32) = .next s :=
  ⟨rfl, rfl, rfl, test_cartridge_init_goes _, rfl, rfl, rfl, rfl, test_cartridge_init_goes _⟩

/-- The image stays in place after a failed sniff (log entry 35). -/
theorem test_meets_InitPlacesTheRoms_failed_sniff :
    let q := { cartridgeRequest .none with sniff := .failed }
    q.snapshot = none ∧ q.sniff = .failed ∧ q.cfg.programType = .cartridge ∧ q.cartridge[1]? = some 0x30#8 ∧
      ∃ s, initMachine q = .next s := by
  refine ⟨rfl, rfl, rfl, rfl, ?_⟩
  simp only [initMachine, resolveSize, cartridgeRequest, wholeRequest, request, test_whole_buffer, startState]
  exact ⟨_, rfl⟩

/-- D20: the cells an image of two bytes covers are ROM, the others absent, or RAM of block 5; without one none is ROM. -/
theorem test_cartridge_window :
    let c : Config := { Config.atReset with programType := .cartridge, cartridgeSize := 2 }
    region c 0xA001#16 = .rom ∧ region c 0xA002#16 = .absent ∧ region c 0xBFFF#16 = .absent ∧
      region { c with expansion := .k32 } 0xA001#16 = .rom ∧ region { c with expansion := .k32 } 0xA002#16 = .ram ∧
      region { c with expansion := .k35 } 0xA001#16 = .rom ∧ region { c with cartridgeSize := 0 } 0xA000#16 = .absent ∧
      region { c with cartridgeSize := 0x2000 } 0xBFFF#16 = .rom ∧
      region { c with programType := .rawBinary } 0xA000#16 = .absent := by decide

/-- A read and a write of RAM, of a chip register, of ROM and of the first absent address. -/
theorem test_meets_LatchAndOpenBus :
    [0x0000#16, 0x900F#16, 0x912F#16, 0xFFFF#16, 0x9800#16].map (fun a => isNext (busRead a ptr)) =
      [true, true, true, true, true] ∧
    [0x0000#16, 0x900F#16, 0x912F#16, 0xFFFF#16, 0x9800#16].map (fun a => isNext (busWrite a 0x41#8 ptr)) =
      [true, true, true, true, true] ∧
    region ptr.cfg 0x9800#16 = .absent ∧ region ptr.cfg 0x9FFF#16 = .absent ∧ isMemory ptr.cfg 0xFFFF#16 = true ∧
    ptr.cfg.latchOnFetch = false := by decide

theorem test_meets_RomAndColourRam :
    region ptr.cfg 0x8FFF#16 = .rom ∧ region ptr.cfg 0xFFFF#16 = .rom ∧ region ptr.cfg 0x2000#16 = .absent ∧
      Memory.wf ptr.mem = true ∧ region ptr.cfg 0x9400#16 = .colour ∧ region ptr.cfg 0x97FF#16 = .colour := by decide

theorem test_meets_ChipWindowsAndMirrors :
    [0x9010#16, 0x910F#16, 0x9130#16, 0x93FF#16].map (region ptr.cfg) = [.mirror, .mirror, .mirror, .mirror] := by decide

/-- A load of the smallest and of a larger period, and the clock of an underflow. -/
theorem test_meets_FreeRunningTimerPeriod :
    { Via.atReset with acr := 0xC3 }.acr.getLsbD 6 = true ∧
    (∀ v ∈ [0x00#8, 0xFF#8], ∃ c, viaWrite 5#4 v { Via.atReset with acr := 0xC3 } = .next c) ∧
    (v200 3).t1Loaded = false ∧ (v200 3).t1c = 0#16 ∧ [PortInputs.low] ≠ [] ∧
    { Via.atReset with acr := 0xC3 }.acr.getLsbD 7 = true ∧ { Via.atReset with acr := 0x43 }.acr.getLsbD 7 = false := by
  refine ⟨by decide, ?_, by decide, by decide, by decide, by decide, by decide⟩
  intro v hv
  apply next_of_isNext
  revert v
  decide

theorem test_meets_OneShotTimersFireOnce :
    Via.atReset.acr.getLsbD 6 = false ∧ Via.atReset.acr.getLsbD 5 = false ∧
    (∃ c, viaWrite 5#4 0x00#8 Via.atReset = .next c) ∧ (∃ c, viaWrite 9#4 0xFF#8 Via.atReset = .next c) ∧
    Via.atReset.t1Armed = false ∧ Via.atReset.t2Armed = false ∧ Via.atReset.acr.getLsbD 7 = false ∧
    { Via.atReset with acr := 0x80 }.acr.getLsbD 7 = true ∧ { Via.atReset with acr := 0x80 }.acr.getLsbD 6 = false :=
  ⟨by decide, by decide, ⟨_, rfl⟩, ⟨_, rfl⟩, rfl, rfl, by decide, by decide, by decide⟩

theorem test_meets_FlagsStayUntilCleared :
    ∀ r : BitVec 4, ∃ c, viaWrite r 0xC3#8 { Via.atReset with ifr := 0x7F } = .next c := by
  intro r
  apply next_of_isNext
  revert r
  decide

theorem test_meets_RefusedTimerModes :
    (∃ c, viaWrite 11#4 0xC3#8 Via.atReset = .next c) ∧ (∃ c, viaWrite 12#4 0xEE#8 Via.atReset = .next c) ∧
      isNext (viaWrite 11#4 0x04#8 Via.atReset) = false ∧ isNext (viaWrite 12#4 0xA0#8 Via.atReset) = false :=
  ⟨next_of_isNext (by decide), next_of_isNext (by decide), by decide, by decide⟩

theorem test_meets_PortReads : (0 : Nat) < 8 ∧ (7 : Nat) < 8 := by decide

/-- A reset raster; the last position of a frame, and the first, whose vertical counter is about to move. -/
theorem test_meets_RasterVisitsEachPositionOnce :
    (0 < smallConfig.timing.lineCycles ∧ (small 0 0 false).vic.h = 0 ∧ (small 0 0 false).vic.v = 0 ∧
      (small 0 0 false).vic.vPend = false) ∧
    ∀ c ∈ [(small 1 2 false).vic, (small 0 0 true).vic],
      c.h < smallConfig.timing.lineCycles ∧ c.v < smallConfig.lines ∧ c.vPend = (c.h == 0) := by decide

/-- The first clause from inside a frame and from a line end; the second from a reset raster, for the first call and for the one
that completes the frame. -/
theorem test_meets_OneFrameCompletionPerFrame :
    (Invariant (small 1 2 false) ∧ (small 1 2 false).vic.vPend = ((small 1 2 false).vic.h == 0) ∧
      ∃ t, runCycles 6 (small 1 2 false) = .next t) ∧
    (Invariant (small 0 0 true) ∧ (small 0 0 true).vic.vPend = ((small 0 0 true).vic.h == 0) ∧
      ∃ t, runCycles 6 (small 0 0 true) = .next t) ∧
    (∃ o, vicCycle smallConfig [] 0 (small 0 0 true).vic = .next o) ∧
    Invariant (small 0 0 false) ∧ smallConfig.timing.lineCycles * smallConfig.lines = 6 ∧
    1 ≤ smallConfig.timing.firstVisible ∧ smallConfig.timing.lineCycles * smallConfig.timing.firstVisible = 2 ∧
    (∃ t, runCycles 1 (small 0 0 false) = .next t) ∧ ∃ t, runCycles 3 (small 0 0 false) = .next t :=
  ⟨⟨test_small_invariant 1 2 false (by decide) (by decide) (by decide), by decide, next_of_isNext (by decide)⟩,
    ⟨test_small_invariant 0 0 true (by decide) (by decide) (by decide), by decide, next_of_isNext (by decide)⟩,
    ⟨_, rfl⟩, test_small_invariant 0 0 false (by decide) (by decide) (by decide), by decide, by decide, by decide,
    next_of_isNext (by decide), next_of_isNext (by decide)⟩

/-- On the way into a line, at the second column's screen-code fetch and at its character fetch. -/
theorem test_meets_ScreenCodeAddressByColumn :
    let g := { v237 with r2 := 0x82 }
    (∀ c, c = { chip g with fs := .matrixDelay3, vmc := 5, vmcLatch := 5, colsLeft := 2 } ∨
        c = { chip g with fs := .screenCode, vmc := 6, vmcLatch := 5, colsLeft := 1 } ∨
        c = { chip g with fs := .charData, vmc := 7, vmcLatch := 5, colsLeft := 1 } →
      ColumnLaw c ∧ inLongSync Config.atReset.timing 32 = false ∧
        ∃ o, vicCycle Config.atReset [] 0 { c with v := 32 } = .next o) := by
  intro g c h
  rcases h with rfl | rfl | rfl <;> refine ⟨?_, by decide, ⟨_, rfl⟩⟩
  · exact ⟨rfl, by decide⟩
  · exact ⟨by decide, by decide, by decide⟩
  · exact ⟨by decide, by decide, by decide⟩

/-- A line before the first visible one, both ends of a visible line's blanking, and a visible cycle. -/
theorem test_meets_EightUnitsPerCycle :
    ∀ hv ∈ [(70, 0), (70, 27), (11, 28), (71, 28), (12, 28), (70, 311)],
      isNext (vicCycle Config.atReset [] 0 { chip v237 with h := hv.1, v := hv.2 }) = true ∧
        (hv.2 < Config.atReset.timing.firstVisible ∨ hv.1 < Config.atReset.timing.hvisFirst ∨
          Config.atReset.timing.hvisLast < hv.1 ∨ hv = (12, 28) ∨ hv = (70, 311)) := by decide

/-- The pipeline of V242 to V244 in one half of a character. -/
def pixelChip (rF : Byte) (colour : BitVec 4) (left : Fin 3) : Vic :=
  { chip { VicRegs.zero with rF := rF } with pipe := 0xA5, pipeColour := colour, pixLeft := left }

theorem test_meets_PixelsOfTheRulesExamples :
    ((pixelChip 0x1B 2 2).pipe = 0xA5#8 ∧ (pixelChip 0x1B 2 2).pipeColour = 0x2#4 ∧ (pixelChip 0x1B 2 2).reg.rF = 0x1B#8 ∧
      (pixelChip 0x1B 2 2).pixLeft = 2 ∧ (pixelChip 0x1B 2 1).pixLeft = 1) ∧
    (pixelChip 0x13 2 1).reg.rF = 0x13#8 ∧ (pixelChip 0x0B 0xA 2).pipeColour = 0xA#4 ∧
    border (pixelChip 0x0B 0xA 2).reg = 3#4 ∧ (pixelChip 0x0B 0xA 0).pixLeft = 0 ∧
    ({ pixelChip 0x0B 0xA 2 with pipe := 0x1B }).pipe = 0x1B#8 ∧ (pixelChip 0x0B 0xA 2).pipeColour.getLsbD 3 = true := by
  decide

theorem test_meets_VideoRegisters :
    (∀ r : BitVec 4, ∃ c, vicWrite r 0x7F#8 (chip v237) = .next c) ∧ (0 : Nat) < 512 ∧ (511 : Nat) < 512 := by
  refine ⟨?_, by decide⟩
  intro r
  apply next_of_isNext
  revert r
  decide

theorem test_meets_ToneVoiceSquareWave :
    (127 : Nat) ≤ ({ cnt := 127, sr := 0 } : Voice).cnt.toNat ∧ 16 % 16 = 0 ∧ 0 % 16 = 0 ∧
    ({ cnt := 127, sr := 0 } : Voice).cnt ≠ 0#7 ∧ ({ cnt := 0, sr := 0 } : Voice).cnt = 0#7 := by decide

theorem test_meets_AudioSamples :
    Invariant (small 1 2 false) ∧ (small 1 2 false).cfg.sampleRate ≤ (small 1 2 false).cfg.timing.clockHz ∧
    (∃ t, runCycles 6 (small 1 2 false) = .next t) ∧ (chip v237).reg.rE.extractLsb' 0 4 = 0#4 ∧
    ∃ o, vicCycle Config.atReset [] 0 { chip v237 with sacc := 1107999 } = .next o ∧ o.2.sample.isSome = true :=
  ⟨test_small_invariant 1 2 false (by decide) (by decide) (by decide), by decide, next_of_isNext (by decide), by decide,
    _, rfl, by decide⟩

end Sys2Proof.Tests
end

section
/-! The obligations about the bus and the address map (O41, O42, O43), and the laws of the bus they rest on. -/

namespace Sys2Proof.Machine

/-! ## The address map: where the chips' windows lie (R90, R92, R93) -/

/-- The addresses at which a region can stand, whatever the configuration: each chip, colour RAM and the refused mirrors have
their own, and the rest is left to RAM, ROM and absent cells. -/
def InWindow (a : Word) : Region → Prop
  | .vic => 0x9000 ≤ a.toNat ∧ a.toNat ≤ 0x900F
  | .viaA => 0x9110 ≤ a.toNat ∧ a.toNat ≤ 0x911F
  | .viaB => 0x9120 ≤ a.toNat ∧ a.toNat ≤ 0x912F
  | .colour => 0x9400 ≤ a.toNat ∧ a.toNat ≤ 0x97FF
  | .mirror => (0x9010 ≤ a.toNat ∧ a.toNat ≤ 0x910F) ∨ (0x9130 ≤ a.toNat ∧ a.toNat ≤ 0x93FF)
  | .ram | .rom | .absent => a.toNat < 0x9000 ∨ 0x9800 ≤ a.toNat

/-- Every address lies in the window of what it selects: the ranges of `region`, one after the other. -/
theorem inWindow_region (cfg : Config) (a : Word) : InWindow a (region cfg a) := by
  unfold region block5 ramIf
  dsimp only
  repeat' refine iteInduction (motive := InWindow a) (fun _ => ?_) (fun _ => ?_)
  all_goals
    simp only [InWindow]
    omega

/-- The windows of the chips, of colour RAM and of the mirrors meet no other window. -/
theorem inWindow_disjoint {a : Word} {q r : Region} (hr : r ∉ [Region.ram, .rom, .absent]) (hne : q ≠ r)
    (hq : InWindow a q) : ¬ InWindow a r := by
  intro hw
  cases r
  case ram | rom | absent => exact hr (by decide)
  all_goals
    cases q <;> simp only [InWindow, ne_eq, not_true_eq_false] at hq hw hne <;> omega

/-- A chip, colour RAM and the mirrors stand exactly in their windows, whatever the configuration. -/
theorem region_eq_iff_inWindow {r : Region} (hr : r ∉ [Region.ram, .rom, .absent]) (cfg : Config) (a : Word) :
    region cfg a = r ↔ InWindow a r := by
  constructor
  · rintro rfl
    exact inWindow_region cfg a
  · intro hw
    by_contra hne
    exact inWindow_disjoint hr hne (inWindow_region cfg a) hw

theorem registerIndex_toNat (a : Word) : (registerIndex a).toNat = a.toNat % 16 := by
  simp [registerIndex, BitVec.extractLsb'_toNat]

/-! ## Reads, writes and fetches, by what stands at the address -/

section
variable {a : Word} {s t : State}

theorem busRead_mirror (h : region s.cfg a = .mirror) : busRead a s = .refused (.unmodelledIoMirror a) := by
  simp only [busRead, h]

theorem busWrite_mirror (v : Byte) (h : region s.cfg a = .mirror) :
    busWrite a v s = .refused (.unmodelledIoMirror a) := by
  simp only [busWrite, h]

/-- R84: outside RAM and ROM a fetch is an ordinary read. -/
theorem busFetch_of_not_isMemory (h : isMemory s.cfg a = false) : busFetch a s = busRead a s := by
  simp [busFetch, h]

theorem busRead_absent (h : region s.cfg a = .absent) : busRead a s = .next (s.latch, s) := by
  simp only [busRead, h]
  rfl

theorem busRead_colour (h : region s.cfg a = .colour) :
    busRead a s = .next (s.latch.extractLsb' 4 4 ++ colourNibble s.mem a,
      s.withLatch (s.latch.extractLsb' 4 4 ++ colourNibble s.mem a)) := by
  simp only [busRead, h, readDone]

/-- R88: ROM and absent cells take no byte. -/
theorem busWrite_rom_or_absent (v : Byte) (h : region s.cfg a = .rom ∨ region s.cfg a = .absent) :
    busWrite a v s = .next (s.withLatch v) := by
  rcases h with h | h <;> simp only [busWrite, storeByte, h] <;> rfl

theorem busWrite_colour (v : Byte) (h : region s.cfg a = .colour) :
    busWrite a v s = .next ((s.withMem (storeByte s.cfg s.mem a v)).withLatch v) := by
  simp only [busWrite, h]

/-- R83: a read that goes on leaves in the latch the byte it gave. -/
theorem latch_of_busRead {v : Byte} (h : busRead a s = .next (v, t)) : t.latch = v := by
  have ha : Accessible s.cfg a := fun hm => by simp [busRead_mirror hm] at h
  obtain ⟨w, A, B, hread, -⟩ := busRead_spec ha
  cases hread.symm.trans h
  exact State.withLatch_latch ..

/-- R83: a write that goes on ends by putting its byte in the latch, and it keeps the configuration. -/
theorem latch_cfg_of_busWrite {v : Byte} (h : busWrite a v s = .next t) : t.latch = v ∧ t.cfg = s.cfg := by
  unfold busWrite at h
  split at h
  case h_4 => cases h
  case h_1 | h_2 | h_3 =>
    obtain ⟨c, -, hc⟩ := andThen_eq_next.mp h
    cases hc
    exact ⟨rfl, rfl⟩
  all_goals
    cases h
    exact ⟨rfl, rfl⟩

end

/-! ## The nibbles of colour RAM (R92) -/

theorem nibble_append_toNat : ∀ x y : BitVec 4, (x ++ y : BitVec 8).toNat = x.toNat * 16 + y.toNat := by decide

/-- The high nibble of a byte over its masked low nibble is the byte. -/
theorem high_append_masked_low : ∀ v : Byte, v.extractLsb' 4 4 ++ (v &&& 0x0F#8).extractLsb' 0 4 = v := by decide

theorem highNibble_toNat (v : Byte) : (v.extractLsb' 4 4).toNat = v.toNat / 16 := by
  have hv := v.isLt
  simp only [BitVec.extractLsb'_toNat, Nat.shiftRight_eq_div_pow]
  omega

theorem colourNibble_toNat (m : List Host.Cell) (a : Word) : (colourNibble m a).toNat = (cell m a).toNat % 16 := by
  simp [colourNibble, BitVec.extractLsb'_toNat]

/-- R406: the colour cell of a video address is its low ten bits, counted from `$9400`. -/
theorem colourCellOf_eq_add (va : BitVec 14) : colourCellOf va = 0x9400#16 + (va &&& 0x3FF#14).setWidth 16 := by
  have hmask : va.toNat &&& 1023 = va.toNat % 1024 := Nat.and_two_pow_sub_one_eq_mod va.toNat 10
  have hlow : va.toNat % 1024 < 2 ^ 10 := Nat.mod_lt _ (by decide)
  apply BitVec.eq_of_toNat_eq
  simp only [colourCellOf, BitVec.toNat_append, BitVec.extractLsb'_toNat, BitVec.toNat_add, BitVec.toNat_setWidth,
    BitVec.toNat_and, BitVec.toNat_ofNat, Nat.shiftRight_zero]
  rw [← Nat.shiftLeft_add_eq_or_of_lt hlow, Nat.shiftLeft_eq]
  simp only [Nat.reducePow, Nat.reduceMod, hmask]
  omega

/-- R92: a colour cell that was just written reads as the whole byte, for the latch still holds its high nibble. -/
theorem busRead_after_colour_write {a : Word} {v : Byte} {t : State} (h : region t.cfg a = .colour)
    (hlatch : t.latch = v) (hcell : cell t.mem a = v &&& 0x0F#8) : busRead a t = .next (v, t) := by
  rw [busRead_colour h, colourNibble, hcell, hlatch, high_append_masked_low, ← hlatch]
  rfl

/-! ## The obligations -/

/-- Settles O41: the latch laws of reads and writes, and the equation of a fetch. -/
theorem latchAndOpenBus : Obligations.LatchAndOpenBus := by
  refine ⟨fun a s v t => latch_of_busRead, fun a v s t h => (latch_cfg_of_busWrite h).1,
    fun a s => busRead_absent, fun a b v s t hw hb => ?_, fun a s => ?_⟩
  · obtain ⟨hlatch, hcfg⟩ := latch_cfg_of_busWrite hw
    rw [busRead_absent (hcfg ▸ hb), hlatch]
  · simp only [busFetch, Bool.and_eq_true, Bool.not_eq_true']

/-- Settles O42: ROM and absent cells take no byte; a colour read puts two nibbles together, and a write right
before it has left both of them. -/
theorem romAndColourRam : Obligations.RomAndColourRam := by
  refine ⟨fun a v s => busWrite_rom_or_absent v, fun a s h => ?_, fun m va => ?_, fun a v s hwf h => ?_⟩
  · refine ⟨_, busRead_colour h, ?_⟩
    rw [nibble_append_toNat, highNibble_toNat, colourNibble_toNat]
  · rw [colourRead, colourNibble_toNat, colourCellOf_eq_add]
  · have hcell : ∀ b, cell (storeByte s.cfg s.mem a v) b = if b = a then v &&& 0x0F#8 else cell s.mem b := by
      intro b
      rw [cell_storeByte hwf]
      simp only [cellAfterWrite, h]
    have hself := (hcell a).trans (if_pos rfl)
    exact ⟨_, busWrite_colour v h, hself, fun b hb => (hcell b).trans (if_neg hb),
      busRead_after_colour_write h rfl hself⟩

/-- Settles O43: each window by its disjointness from the others, and the refusals by the equations of the bus. -/
theorem chipWindowsAndMirrors : Obligations.ChipWindowsAndMirrors := by
  refine ⟨fun cfg a => ?_, fun a v s h => ?_⟩
  · refine ⟨?_, ?_, ?_, ?_, ?_, registerIndex_toNat a⟩
    all_goals exact region_eq_iff_inWindow (by decide) cfg a
  · have hm : isMemory s.cfg a = false := by simp only [isMemory, h]
    exact ⟨busRead_mirror h, (busFetch_of_not_isMemory hm).trans (busRead_mirror h), busWrite_mirror v h⟩

end Sys2Proof.Machine
end

section
/-! The obligation about undocumented opcodes (O29), and what a step at a boundary that begins an instruction does first. -/

namespace Sys2Proof.Machine

theorem operandCount_eq_none {op : Byte} (h : findRow op = none) : operandCount op = none := by
  rw [operandCount, h, Option.map_none]

/-! ## A step that begins an instruction (R121, R305, R306) -/

/-- No interrupt is taken at a boundary that begins an instruction. -/
theorem boundaryKind_of_atInstruction {s : State} (h : AtInstruction s) : boundaryKind s = .instr := by
  have hirq : (irqLine s && !s.regs.p.i) = false := by
    rcases h.irq with hline | hmask
    · rw [hline, Bool.false_and]
    · rw [hmask, Bool.not_true, Bool.and_false]
  simp [boundaryKind, h.nmi, hirq]

/-- At a boundary that begins an instruction, the step fetches it and runs its meaning. -/
theorem step_of_atInstruction {s : State} (h : AtInstruction s) :
    step s = andThen (fetchInstr s) fun f => exec f.1 f.2 := by
  unfold step
  split
  case h_1 hrun => exact absurd hrun h.run
  case h_2 => simp only [h.seq, boundaryKind_of_atInstruction h]

/-- The clock that reads at `PC` gives the fetched byte. -/
theorem fetchByte_of_clock {s u : State} {o : Obs} (h : clock (.fetch s.regs.pc) .keep s = .next (o, u)) :
    fetchByte s = .next (o.byte, u.withRegs (advance s.regs)) := by
  rw [fetchByte, h, andThen_next]

/-- R137: the fetch ends at an opcode without a row, before any operand byte is read. -/
theorem fetchInstr_undocumented {s u : State} {op : Byte} (hfetch : fetchByte s = .next (op, u))
    (hrow : findRow op = none) : fetchInstr s = .refused (.undocumentedOpcode op) := by
  simp only [fetchInstr, hfetch, andThen_next, operandCount_eq_none hrow]

/-- R137: a step whose first clock fetches an opcode without a row is refused with that opcode. -/
theorem step_undocumented {s u : State} {o : Obs} (h : AtInstruction s)
    (hclock : clock (.fetch s.regs.pc) .keep s = .next (o, u)) (hrow : findRow o.byte = none) :
    step s = .refused (.undocumentedOpcode o.byte) := by
  rw [step_of_atInstruction h, fetchInstr_undocumented (fetchByte_of_clock hclock) hrow, andThen_refused]

/-- Reading at `PC` in RAM or ROM always goes on, and shows the cell's byte. -/
theorem clock_fetch_memory {s : State} (h : Ready s) {a : Word} (hmem : isMemory s.cfg a = true) :
    ∃ u, clock (.fetch a) .keep s = .next (⟨cell s.mem a, false⟩, u) := by
  obtain ⟨v, u, hclock, hbyte, -⟩ := clock_fetch h (accessible_of_isMemory hmem)
  exact ⟨u, hbyte.cell hmem ▸ hclock⟩

/-- Settles O29: the list by evaluating the opcode map at the 256 values, and the step in memory as the case where the
fetch clock shows the cell's byte. -/
theorem undocumentedOpcodesAreRefused : Obligations.UndocumentedOpcodesAreRefused := by
  refine ⟨by decide, fun s hat hready hmem hrow => ?_, fun s o u hat hclock hrow => ?_⟩
  · obtain ⟨u, hclock⟩ := clock_fetch_memory hready hmem
    exact step_undocumented hat hclock hrow
  · exact step_undocumented hat hclock hrow

end Sys2Proof.Machine
end

section
/-! The obligation about the register transfers (O9), and the rule of every instruction whose one clock after its opcode is the
dummy read of the next byte (R522). -/

namespace Sys2Proof.Machine

/-! ## Writing a register with N and Z from it (R13, R150), as the statements write it out -/

theorem loadA_eq (v : Byte) (r : Regs) :
    loadA v r = { r with a := v, p := { r.p with n := v.getLsbD 7, z := v == 0#8 } } := rfl

theorem loadX_eq (v : Byte) (r : Regs) :
    loadX v r = { r with x := v, p := { r.p with n := v.getLsbD 7, z := v == 0#8 } } := rfl

theorem loadY_eq (v : Byte) (r : Regs) :
    loadY v r = { r with y := v, p := { r.p with n := v.getLsbD 7, z := v == 0#8 } } := rfl

/-! ## Implied and accumulator instructions (R522) -/

/-- An instruction of one byte whose script is the dummy read at `PC` and then `f` of the registers completes: the read writes
nothing, and the registers are set after it. -/
theorem impliedCompletes_of_micro {op : Byte} {i : Instr} {f : Regs → Regs} (hcode : encode i = [op])
    (hscript : ∀ r, microOf i r = implied r (f r)) : ImpliedCompletes op i f := by
  refine ⟨hcode, fun s hready hpc => ?_⟩
  obtain ⟨t, hrun, hlatch, hquiet⟩ := implied_spec hready hpc
  have hq := quiet_withRegs hquiet (f s.regs)
  have hexec : exec i s = .next (t.withRegs (f s.regs)) := by rw [exec_eq_runMicro, hscript, hrun]
  exact ⟨_, hexec, State.withRegs_regs .., hlatch, fun b => by rw [hq.mem], hq.chips, hq.kept⟩

/-! ## The obligation -/

/-- Settles O9: each transfer is an implied instruction that writes one register from another; all but `TXS` do it with N and Z
from the copy (R150). -/
theorem transfersCopyARegister : Obligations.TransfersCopyARegister := by
  refine ⟨?tax, ?tay, ?txa, ?tya, ?tsx, ?txs⟩
  case tax => exact impliedCompletes_of_micro rfl fun r => congrArg (implied r) (loadX_eq r.a r)
  case tay => exact impliedCompletes_of_micro rfl fun r => congrArg (implied r) (loadY_eq r.a r)
  case txa => exact impliedCompletes_of_micro rfl fun r => congrArg (implied r) (loadA_eq r.x r)
  case tya => exact impliedCompletes_of_micro rfl fun r => congrArg (implied r) (loadA_eq r.y r)
  case tsx => exact impliedCompletes_of_micro rfl fun r => congrArg (implied r) (loadX_eq r.s r)
  case txs => exact impliedCompletes_of_micro rfl fun _ => rfl

end Sys2Proof.Machine
end

section
/-! The obligation about the index registers' steps (O10). -/

namespace Sys2Proof.Machine

/-- Settles O10: each step is an implied instruction that loads its index register with the stepped value, N and Z from it. -/
theorem indexRegistersStepByOne : Obligations.IndexRegistersStepByOne := by
  refine ⟨?inx, ?iny, ?dex, ?dey⟩
  case inx => exact impliedCompletes_of_micro rfl fun r => congrArg (implied r) (loadX_eq (r.x + 1) r)
  case iny => exact impliedCompletes_of_micro rfl fun r => congrArg (implied r) (loadY_eq (r.y + 1) r)
  case dex => exact impliedCompletes_of_micro rfl fun r => congrArg (implied r) (loadX_eq (r.x - 1) r)
  case dey => exact impliedCompletes_of_micro rfl fun r => congrArg (implied r) (loadY_eq (r.y - 1) r)

end Sys2Proof.Machine
end

section
/-! The obligation about binary addition and subtraction (O25), and the laws of `addBin` and `subBin` it rests on. -/

namespace Sys2Proof.Machine

/-! ## The carry and the sign bit as numbers, and when two sums are equal -/

theorem carryNat_eq_toNat (c : Bool) : carryNat c = c.toNat := by
  cases c <;> rfl

theorem bitOf_seven_iff (v : Byte) : bitOf v 7 = true ↔ 128 ≤ v.toNat := by
  have hmsb : bitOf v 7 = v.msb := v.msb_eq_getLsbD_last.symm
  rw [hmsb, BitVec.msb_eq_decide, decide_eq_true_iff]

/-- The rules test bit 7 with a mask, the model reads the bit. -/
theorem bitOf_seven_iff_mask : ∀ v : Byte, bitOf v 7 = true ↔ v &&& 0x80#8 ≠ 0#8 := by decide

/-- V of an addition says that the operands' signs agree and the result's differs. -/
theorem bitOf_overflow_iff (a m r : Byte) : bitOf (~~~(a ^^^ m) &&& (a ^^^ r)) 7 = true ↔
    (bitOf a 7 = true ↔ bitOf m 7 = true) ∧ ¬(bitOf a 7 = true ↔ bitOf r 7 = true) := by
  simp only [bitOf, BitVec.getLsbD_and, BitVec.getLsbD_not, BitVec.getLsbD_xor]
  generalize a.getLsbD 7 = x, m.getLsbD 7 = y, r.getLsbD 7 = z
  revert x y z
  decide

/-- Two's complement: a byte with its sign bit set stands for its value less 256. -/
theorem byte_toInt_eq (v : Byte) : v.toInt = if 128 ≤ v.toNat then (v.toNat : Int) - 256 else v.toNat := by
  rw [BitVec.toInt_eq_toNat_cond]
  omega

theorem sum_ext {p q : Sum} (hresult : p.result = q.result) (hc : p.c = q.c) (hv : p.v = q.v) (hn : p.n = q.n)
    (hz : p.z = q.z) : p = q := by
  cases p
  cases q
  rw [Sum.mk.injEq]
  exact ⟨hresult, hc, hv, hn, hz⟩

/-! ## Addition (R191) -/

section
variable (a m : Byte) (c : Bool)

theorem addBin_result_toNat : (addBin a m c).result.toNat = (a.toNat + m.toNat + c.toNat) % 256 := by
  simp only [addBin, carryNat_eq_toNat, BitVec.toNat_ofNat, Nat.reducePow]

theorem addBin_c_iff : (addBin a m c).c = true ↔ 255 < a.toNat + m.toNat + c.toNat := by
  simp only [addBin, carryNat_eq_toNat, decide_eq_true_iff]

theorem addBin_n_iff : (addBin a m c).n = true ↔ 128 ≤ (addBin a m c).result.toNat := bitOf_seven_iff _

theorem addBin_z_iff : (addBin a m c).z = true ↔ (addBin a m c).result = 0#8 := beq_iff_eq

theorem addBin_v_iff_mask :
    (addBin a m c).v = true ↔ ~~~(a ^^^ m) &&& (a ^^^ (addBin a m c).result) &&& 0x80#8 ≠ 0#8 :=
  bitOf_seven_iff_mask _

/-- The rules' bit formula for V is signed overflow: the signs decide whether the exact sum lies outside `-128 … 127`. -/
theorem addBin_v_iff_overflow : (addBin a m c).v = true ↔
    a.toInt + m.toInt + c.toNat < -128 ∨ 127 < a.toInt + m.toInt + c.toNat := by
  have hsigns : (addBin a m c).v = true ↔ (128 ≤ a.toNat ↔ 128 ≤ m.toNat) ∧
      ¬(128 ≤ a.toNat ↔ 128 ≤ (a.toNat + m.toNat + c.toNat) % 256) := by
    rw [← addBin_result_toNat]
    simp only [← bitOf_seven_iff]
    exact bitOf_overflow_iff a m _
  have ha := a.isLt
  have hm := m.isLt
  have hc := c.toNat_le
  rw [hsigns, byte_toInt_eq, byte_toInt_eq]
  omega

/-! ## Subtraction (R192) -/

theorem subBin_result_toNat : ((subBin a m c).result.toNat : Int) =
    ((a.toNat : Int) - m.toNat - (1 - (c.toNat : Int))) % 256 := by
  simp only [subBin, carryNat_eq_toNat, BitVec.toNat_ofInt]
  omega

theorem subBin_c_iff : (subBin a m c).c = true ↔ 0 ≤ (a.toNat : Int) - m.toNat - (1 - (c.toNat : Int)) := by
  simp only [subBin, carryNat_eq_toNat, decide_eq_true_iff]

theorem subBin_v_iff_mask :
    (subBin a m c).v = true ↔ (a ^^^ m) &&& (a ^^^ (subBin a m c).result) &&& 0x80#8 ≠ 0#8 :=
  bitOf_seven_iff_mask _

theorem byte_toInt_not : (~~~m).toInt = -m.toInt - 1 := by
  have hm := m.isLt
  rw [byte_toInt_eq, byte_toInt_eq, BitVec.toNat_not]
  omega

/-- The difference is the sum with the complement less 256, so both give the same byte. -/
theorem subBin_result_eq_addBin_not : (subBin a m c).result = (addBin a (~~~m) c).result := by
  apply BitVec.eq_of_toNat_eq
  have hm := m.isLt
  have hsub := subBin_result_toNat a m c
  have hadd := addBin_result_toNat a (~~~m) c
  rw [BitVec.toNat_not] at hadd
  omega

theorem subBin_c_eq_addBin_not : (subBin a m c).c = (addBin a (~~~m) c).c := by
  have hm := m.isLt
  rw [Bool.eq_iff_iff, subBin_c_iff, addBin_c_iff, BitVec.toNat_not]
  omega

/-- R192: subtraction is addition of the complement. Beside the result and C, the two formulas for V agree because
complementing `m` undoes the complement of `a ^^^ m`. -/
theorem subBin_eq_addBin_not : subBin a m c = addBin a (~~~m) c := by
  have hresult := subBin_result_eq_addBin_not a m c
  have hxor : ~~~(a ^^^ ~~~m) = a ^^^ m := by rw [BitVec.not_xor_right, BitVec.not_not]
  have hv : (subBin a m c).v = (addBin a (~~~m) c).v := by
    change bitOf ((a ^^^ m) &&& (a ^^^ (subBin a m c).result)) 7 =
      bitOf (~~~(a ^^^ ~~~m) &&& (a ^^^ (addBin a (~~~m) c).result)) 7
    rw [hresult, hxor]
  exact sum_ext hresult (subBin_c_eq_addBin_not a m c) hv (congrArg (bitOf · 7) hresult) (congrArg (· == 0#8) hresult)

theorem subBin_v_iff_overflow : (subBin a m c).v = true ↔
    a.toInt - m.toInt - (1 - (c.toNat : Int)) < -128 ∨ 127 < a.toInt - m.toInt - (1 - (c.toNat : Int)) := by
  rw [subBin_eq_addBin_not, addBin_v_iff_overflow, byte_toInt_not]
  omega

theorem subBin_n_iff : (subBin a m c).n = true ↔ 128 ≤ (subBin a m c).result.toNat := bitOf_seven_iff _

theorem subBin_z_iff : (subBin a m c).z = true ↔ (subBin a m c).result = 0#8 := beq_iff_eq

end

/-! ## The obligation -/

/-- Settles O25: the laws of `addBin`, those of `subBin`, and the one that carries overflow from the first to the second. -/
theorem binaryArithmeticLaws : Obligations.BinaryArithmeticLaws := fun a m c =>
  ⟨⟨addBin_result_toNat a m c, addBin_c_iff a m c, addBin_v_iff_mask a m c, addBin_v_iff_overflow a m c,
      addBin_n_iff a m c, addBin_z_iff a m c⟩,
    ⟨subBin_result_toNat a m c, subBin_c_iff a m c, subBin_v_iff_mask a m c, subBin_v_iff_overflow a m c,
      subBin_n_iff a m c, subBin_z_iff a m c⟩,
    subBin_eq_addBin_not a m c⟩

end Sys2Proof.Machine
end

section
/-! The obligation about the conditional branches (O15). -/

namespace Sys2Proof.Machine

/-! ## The instruction of each branch -/

/-- The instruction a branch and its offset byte make: the inverse of `Instr.shape` on branches. -/
def branchInstr : BranchOp → Byte → Instr
  | .bcc, d => .bcc d
  | .bcs, d => .bcs d
  | .beq, d => .beq d
  | .bne, d => .bne d
  | .bmi, d => .bmi d
  | .bpl, d => .bpl d
  | .bvc, d => .bvc d
  | .bvs, d => .bvs d

theorem shape_branchInstr (op : BranchOp) (d : Byte) : (branchInstr op d).shape = .branch op d := by
  cases op <;> rfl

/-- Only eight constructors have the shape of a branch, one for each `BranchOp`. -/
theorem shape_eq_branch_iff {i : Instr} {op : BranchOp} {d : Byte} : i.shape = .branch op d ↔ i = branchInstr op d := by
  constructor
  · intro hshape
    cases i <;> cases hshape <;> rfl
  · rintro rfl
    exact shape_branchInstr op d

/-! ## The cycles of a branch (R240, R531) -/

theorem runMicro_branchCycles_not_taken (d : Byte) (s : State) :
    runMicro (branchCycles false d s.regs) s = .next s := rfl

/-- The script of a taken branch: the dummy read at `PC`, then the dummy read before `PCH` is fixed if the page changes. -/
theorem branchCycles_taken (d : Byte) (r : Regs) :
    branchCycles true d r = fetchAt r fun _ =>
      if pageCrossed r.pc (branchTarget r.pc d) then
        rd { r with pc := branchUnfixed r.pc d } (branchUnfixed r.pc d) fun _ => .done { r with pc := branchTarget r.pc d }
      else .done { r with pc := branchTarget r.pc d } := rfl

/-- Everything a taken branch can do: its dummy reads write nothing, and PC is its target after them. -/
theorem runMicro_branchCycles_taken {s : State} {d : Byte} (hready : Ready s) (hpc : Accessible s.cfg s.regs.pc)
    (hunfixed : pageCrossed s.regs.pc (branchTarget s.regs.pc d) = true → Accessible s.cfg (branchUnfixed s.regs.pc d)) :
    ∃ t, runMicro (branchCycles true d s.regs) s = .next (t.withRegs { s.regs with pc := branchTarget s.regs.pc d }) ∧
      Quiet (if pageCrossed s.regs.pc (branchTarget s.regs.pc d) then 2 else 1) s t := by
  obtain ⟨_, u, hfetch, -, -, -, hquiet⟩ := runMicro_fetchAt hready hpc
  rw [branchCycles_taken, hfetch]
  split
  case isTrue hcross =>
    have haccess : Accessible u.cfg (branchUnfixed s.regs.pc d) := hquiet.cfg ▸ hunfixed hcross
    obtain ⟨_, t, hread, -, -, -, hquiet'⟩ :=
      runMicro_rd hquiet.ready haccess { s.regs with pc := branchUnfixed s.regs.pc d }
    exact ⟨t, by rw [hread, runMicro_done], hquiet.trans hquiet'⟩
  case isFalse => exact ⟨u, runMicro_done .., hquiet⟩

/-- A branch whose script is `branchCycles` on a condition completes, taken exactly on that condition. -/
theorem branchCompletes_of_micro {op : BranchOp} {code : Byte} {taken : Flags → Bool}
    (hcode : ∀ d, encode (branchInstr op d) = [code, d])
    (hscript : ∀ d r, microOf (branchInstr op d) r = branchCycles (taken r.p) d r) : BranchCompletes op code taken := by
  intro i d s hshape
  obtain rfl := shape_eq_branch_iff.mp hshape
  have hexec : exec (branchInstr op d) s = runMicro (branchCycles (taken s.regs.p) d s.regs) s := by
    rw [exec_eq_runMicro, hscript]
  refine ⟨hcode d, fun hnot => ?_, fun htaken hready hpc hunfixed => ?_⟩
  · rw [hexec, hnot, runMicro_branchCycles_not_taken]
  · obtain ⟨t, hrun, hquiet⟩ := runMicro_branchCycles_taken hready hpc hunfixed
    have hq := quiet_withRegs hquiet { s.regs with pc := branchTarget s.regs.pc d }
    have htarget : branchTarget s.regs.pc d = s.regs.pc + d.signExtend 16 := rfl
    exact ⟨t.withRegs { s.regs with pc := branchTarget s.regs.pc d }, by rw [hexec, htaken, hrun],
      by rw [State.withRegs_regs, htarget], fun b => by rw [hq.mem], hq.chips, hq.kept⟩

/-! ## The obligation -/

/-- Settles O15: each of the eight is its opcode and offset bytes, and runs the cycles of a branch on its own flag. -/
theorem branchesAreTakenOnTheirFlag : Obligations.BranchesAreTakenOnTheirFlag := by
  refine ⟨?bcc, ?bcs, ?bne, ?beq, ?bpl, ?bmi, ?bvc, ?bvs⟩ <;>
    exact branchCompletes_of_micro (fun _ => rfl) fun _ _ => rfl

end Sys2Proof.Machine
end

section
/-! The obligation about the flag instructions and `NOP` (O12). -/

namespace Sys2Proof.Machine

/-- Settles O12: each of the eight is an implied instruction (R522), whose script sets the registers to themselves with the one
flag written that R260 to R266 name, and for `NOP` (R267) to themselves. -/
theorem flagInstructionsWriteOneFlag : Obligations.FlagInstructionsWriteOneFlag := by
  refine ⟨?clc, ?sec, ?cli, ?sei, ?cld, ?sed, ?clv, ?nop⟩ <;>
    exact impliedCompletes_of_micro rfl fun _ => rfl

end Sys2Proof.Machine
end

section
/-! The obligations about the interrupt lines at a boundary (O21, O22) and the edge of the NMI line (O23): what a clock does to
the NMI latch, and an interrupt entry as `Entered` states it. -/

namespace Sys2Proof.Machine

/-! ## What a clock that goes on does to the NMI latch (R304, R306, R530) -/

section
variable {a : Word} {s t : State}

theorem sameInputs_of_busRead {v : Byte} (h : busRead a s = .next (v, t)) : SameInputs t s := by
  have ha : Accessible s.cfg a := fun hm => by simp [busRead_mirror hm] at h
  obtain ⟨w, A, B, hread, -⟩ := busRead_spec ha
  cases hread.symm.trans h
  exact ⟨rfl, rfl, rfl, rfl⟩

theorem sameInputs_of_busFetch {v : Byte} (h : busFetch a s = .next (v, t)) : SameInputs t s := by
  unfold busFetch at h
  split at h
  case isTrue =>
    cases h
    exact ⟨rfl, rfl, rfl, rfl⟩
  case isFalse => exact sameInputs_of_busRead h

theorem sameInputs_of_busWrite {v : Byte} (h : busWrite a v s = .next t) : SameInputs t s := by
  unfold busWrite at h
  split at h
  case h_4 => cases h
  case h_1 | h_2 | h_3 =>
    obtain ⟨c, -, hc⟩ := andThen_eq_next.mp h
    cases hc
    exact ⟨rfl, rfl, rfl, rfl⟩
  all_goals
    cases h
    exact ⟨rfl, rfl, rfl, rfl⟩

/-- No bus access reaches the host inputs or the NMI latch. -/
theorem sameInputs_of_busAccess {b : BusOp} {v : Byte} (h : busAccess b s = .next (v, t)) : SameInputs t s := by
  cases b with
  | none =>
    cases h
    exact ⟨rfl, rfl, rfl, rfl⟩
  | read a => exact sameInputs_of_busRead h
  | fetch a => exact sameInputs_of_busFetch h
  | write a w =>
    obtain ⟨u, hwrite, hu⟩ := andThen_eq_next.mp h
    cases hu
    exact sameInputs_of_busWrite hwrite

/-- The video/audio chip's part of a clock sets its own state and gives one output. -/
theorem vicPhase_eq_next (h : vicPhase s = .next t) : ∃ c out, t = (s.withVic c).emit out := by
  obtain ⟨⟨c, out⟩, -, ht⟩ := andThen_eq_next.mp h
  cases ht
  exact ⟨c, out, rfl⟩

end

@[simp] theorem actOnNmi_nmiPrev (act : NmiAct) (s : State) : (actOnNmi act s).nmiPrev = s.nmiPrev := by
  cases act with
  | keep => rfl
  | enter => rfl
  | hijack =>
    simp only [actOnNmi]
    split <;> rfl

theorem actOnNmi_keep_nmiPending (s : State) : (actOnNmi .keep s).nmiPending = s.nmiPending := rfl

theorem actOnNmi_enter_nmiPending (s : State) : (actOnNmi .enter s).nmiPending = false := rfl

/-- R530: the fifth cycle of a BRK or IRQ sequence leaves an NMI pending only without `brk_hijack`. -/
theorem actOnNmi_hijack_nmiPending (s : State) :
    (actOnNmi .hijack s).nmiPending = (s.nmiPending && !s.cfg.brkHijack) := by
  cases hh : s.cfg.brkHijack <;> cases hp : s.nmiPending <;> simp [actOnNmi, hijacks, hh, hp]

/-- The NMI latch after a clock is the one its sample of the line and its act on it leave: the bus access and the timer chips
do not reach it. -/
theorem clock_nmi {b : BusOp} {act : NmiAct} {s t : State} {o : Obs} (h : clock b act s = .next (o, t)) :
    ∃ u, u.cfg = s.cfg ∧ u.nmiPrev = (nextInputs s).nmi ∧
      u.nmiPending = (s.nmiPending || ((nextInputs s).nmi && !s.nmiPrev)) ∧
      t.nmiPrev = u.nmiPrev ∧ t.nmiPending = (actOnNmi act u).nmiPending := by
  obtain ⟨s1, hvic, hcpu⟩ := andThen_eq_next.mp h
  obtain ⟨⟨o2, s2⟩, hphase, ht⟩ := andThen_eq_next.mp hcpu
  obtain ⟨⟨v, s3⟩, hbus, hs2⟩ := andThen_eq_next.mp hphase
  obtain ⟨c, out, rfl⟩ := vicPhase_eq_next hvic
  have hsame := sameInputs_of_busAccess hbus
  cases hs2
  cases ht
  refine ⟨sampleNmi (((sampleInputs s).withVic c).emit out), by simp, by simp, by simp, ?_, ?_⟩
  · rw [timersPhase_nmiPrev, hsame.nmiPrev, actOnNmi_nmiPrev]
  · rw [timersPhase_nmiPending, hsame.nmiPending]

/-! ## A line held asserted (R304) -/

theorem nextInputs_nmi_of_held {s : State} (hinp : s.inp.nmi = true) (hinputs : ∀ i ∈ s.inputs, i.nmi = true) :
    (nextInputs s).nmi = true := by
  unfold nextInputs
  cases hq : s.inputs with
  | nil => exact hinp
  | cons i rest => exact hinputs i (by simp [hq])

/-- A line that was asserted and is held so makes no edge, so the latch keeps what it holds. -/
theorem inputsAfter_nmiPending_of_held (n : Nat) {s : State} (hprev : s.nmiPrev = true) (hinp : s.inp.nmi = true)
    (hinputs : ∀ i ∈ s.inputs, i.nmi = true) : (inputsAfter n s).nmiPending = s.nmiPending := by
  induction n generalizing s with
  | zero => rfl
  | succ n ih =>
    have hnext := nextInputs_nmi_of_held hinp hinputs
    have hrest := ih (s := sampleNmi (sampleInputs s)) (by simp [hnext]) (by simp [hnext])
      (fun i hi => hinputs i (List.mem_of_mem_tail (by simpa using hi)))
    calc (inputsAfter (n + 1) s).nmiPending
        = (sampleNmi (sampleInputs s)).nmiPending := hrest
      _ = s.nmiPending := by simp [hprev]

/-- Settles O23: the first part by the act's three cases on the latch that the clock's sample leaves, the second by induction on
the clocks. -/
theorem nmiIsEdgeSensitive : Obligations.NmiIsEdgeSensitive := by
  refine ⟨fun b act s o t h => ?_, fun n s => inputsAfter_nmiPending_of_held n⟩
  obtain ⟨u, hcfg, hline, hlatch, hprev, hpending⟩ := clock_nmi h
  refine ⟨hprev.trans hline, ?_, ?_, ?_⟩
  · rintro rfl
    rw [hpending, actOnNmi_keep_nmiPending, hlatch]
  · rintro rfl
    rw [hpending, actOnNmi_enter_nmiPending]
  · rintro rfl
    rw [hpending, actOnNmi_hijack_nmiPending, hlatch, hcfg]

/-! ## The NMI latch across clocks that keep it -/

theorem inputsAfter_nmiPending_of_kept {n : Nat} {s t : State} (h : Kept n s t) (k : Nat) :
    (inputsAfter k t).nmiPending = (inputsAfter (n + k) s).nmiPending := by
  rw [inputsAfter_add]
  exact (inputsAfter_congr k h.same).nmiPending

theorem SameInputs.withNmiPending {s t : State} (h : SameInputs s t) (b : Bool) :
    SameInputs (s.withNmiPending b) (t.withNmiPending b) :=
  ⟨h.inp, h.inputs, h.nmiPrev, rfl⟩

/-- The clock that clears the latch, and those after it, counted from an earlier state. -/
theorem pendingAfterClear_of_kept {n : Nat} {s t : State} (h : Kept n s t) (k m : Nat) :
    pendingAfterClear k m t = pendingAfterClear (n + k) (n + m) s := by
  have hclear : SameInputs ((inputsAfter k t).withNmiPending false) ((inputsAfter (n + k) s).withNmiPending false) := by
    rw [inputsAfter_add]
    exact (inputsAfter_congr k h.same).withNmiPending false
  rw [pendingAfterClear, pendingAfterClear, Nat.add_sub_add_left]
  exact (inputsAfter_congr (m - k) hclear).nmiPending

/-! ## An interrupt entry from its first cycle on (R310, R530) -/

theorem vectorWord_of_mem {s t : State} (h : t.mem = s.mem) (vector : Word) : vectorWord t vector = vectorWord s vector := by
  rw [vectorWord, vectorWord, h]

theorem chipsKept_withRegs {s t : State} (h : ChipsKept s t) (r : Regs) : ChipsKept s (t.withRegs r) :=
  ⟨h.vicRegs, h.viaA, h.viaB⟩

/-- A state whose registers are those of an entry, and whose cells are those of memory with `ret` and the flags pushed, is what
the entry leaves. -/
theorem entered_of_cells {n : Nat} {ret vector : Word} {b : Bool} {s t : State}
    (hregs : t.regs =
      { s.regs with s := s.regs.s - 3, pc := vectorWord s vector, p := { s.regs.p with i := true } })
    (hcell : ∀ a, cell t.mem a =
      if a = stackAddr (s.regs.s - 2) then packP s.regs.p b else if a = stackAddr (s.regs.s - 1) then loByte ret
      else if a = stackAddr s.regs.s then hiByte ret else cell s.mem a)
    (hchips : ChipsKept s t) (hran : Ran n s t) : Entered n ret b vector s t := by
  obtain ⟨h01, h02, h12⟩ := stack_sub_ne s.regs.s
  refine ⟨hregs, ?_, ?_, ?_, ?_, hchips, hran⟩
  · rw [hcell, if_neg h02, if_neg h01, if_pos rfl]
  · rw [hcell, if_neg h12, if_pos rfl]
  · rw [hcell, if_pos rfl]
  · intro a h0 h1 h2
    rw [hcell, if_neg h2, if_neg h1, if_neg h0]

/-- After `n` clocks that write nothing, the push of `ret` and the flags and the load of the vector complete the entry of a
sequence whose fifth cycle may take over a pending NMI: IRQ and BRK. -/
theorem takeInterrupt_hijack_entered {n : Nat} {s u : State} (hw : Memory.wf s.mem = true) (hquiet : Quiet n s u)
    (ret : Word) (b : Bool) :
    let hijack := s.cfg.brkHijack && (inputsAfter (n + 3) s).nmiPending
    ∃ t, runMicro (takeInterrupt { s.regs with pc := ret } b irqVector .hijack) u = .next t ∧
      Entered (n + 5) ret b (if hijack then nmiVector else irqVector) s t ∧
      t.nmiPending = if hijack then pendingAfterClear (n + 3) (n + 5) s else (inputsAfter (n + 5) s).nmiPending := by
  intro hijack
  have hwu : Memory.wf u.mem = true := hquiet.mem ▸ hw
  obtain ⟨t, hrun, hcell, hstack, hpending⟩ :=
    runMicro_takeInterrupt_hijack hwu hquiet.ready { s.regs with pc := ret } b
  rw [hquiet.cfg, inputsAfter_nmiPending_of_kept hquiet.kept] at hrun hpending
  rw [pendingAfterClear_of_kept hquiet.kept, inputsAfter_nmiPending_of_kept hquiet.kept] at hpending
  rw [vectorWord_of_mem hquiet.mem] at hrun
  rw [hquiet.mem] at hcell
  exact ⟨_, hrun, entered_of_cells rfl hcell (chipsKept_withRegs (hquiet.chips.trans hstack.chips) _)
    (ran_withRegs (hquiet.kept.ran.trans hstack.ran) _), hpending⟩

/-- R306, R530: everything the NMI sequence can do: its first cycle clears the latch, and nothing takes it over. -/
theorem runMicro_nmiMicro {s : State} (hw : Memory.wf s.mem = true) (hready : Ready s) (hpc : Accessible s.cfg s.regs.pc) :
    ∃ t, runMicro (nmiMicro s.regs) s = .next t ∧ Entered 7 s.regs.pc false nmiVector s t ∧
      t.nmiPending = pendingAfterClear 1 7 s := by
  obtain ⟨o, u, hclock, humem, huready, huchips, huran, hulatch⟩ := clock_fetch_enter hready hpc
  have hcleared : SameInputs u ((inputsAfter 1 s).withNmiPending false) :=
    ⟨huran.inp, huran.inputs, huran.nmiPrev, hulatch⟩
  obtain ⟨_, v, hfetch, -, -, -, hquiet⟩ := runMicro_fetchAt huready (r := s.regs) (huran.cfg ▸ hpc)
  have hvmem : v.mem = s.mem := hquiet.mem.trans humem
  obtain ⟨t, hrun, hcell, -, hchips, hkept⟩ := runMicro_takeInterrupt_keep (hvmem ▸ hw) hquiet.ready s.regs false
    (vector := nmiVector) (by decide) (by decide)
  have hkept' : Kept 6 u t := hquiet.kept.trans hkept
  rw [vectorWord_of_mem hvmem] at hrun
  rw [hvmem] at hcell
  have hstart : runMicro (nmiMicro s.regs) s = runMicro (takeInterrupt s.regs false nmiVector .keep) v := by
    rw [nmiMicro, runMicro_cycle, State.withRegs_self, hclock, andThen_next, hfetch]
  refine ⟨_, hstart.trans hrun, ?_, ?_⟩
  · exact entered_of_cells rfl hcell (chipsKept_withRegs ((huchips.trans hquiet.chips).trans hchips) _)
      (ran_withRegs (huran.trans hkept'.ran) _)
  · rw [State.withRegs_nmiPending, hkept'.nmiPending]
    exact (inputsAfter_congr 6 hcleared).nmiPending

/-- R305, R530: everything the IRQ sequence can do: two reads at PC, then the entry. -/
theorem runMicro_irqMicro {s : State} (hw : Memory.wf s.mem = true) (hready : Ready s) (hpc : Accessible s.cfg s.regs.pc) :
    let hijack := s.cfg.brkHijack && (inputsAfter 5 s).nmiPending
    ∃ t, runMicro (irqMicro s.regs) s = .next t ∧
      Entered 7 s.regs.pc false (if hijack then nmiVector else irqVector) s t ∧
      t.nmiPending = if hijack then pendingAfterClear 5 7 s else (inputsAfter 7 s).nmiPending := by
  obtain ⟨_, u, hfetch1, -, -, -, hquiet1⟩ := runMicro_fetchAt hready (r := s.regs) hpc
  obtain ⟨_, v, hfetch2, -, -, -, hquiet2⟩ := runMicro_fetchAt hquiet1.ready (r := s.regs) (hquiet1.cfg ▸ hpc)
  rw [irqMicro, hfetch1, hfetch2]
  exact takeInterrupt_hijack_entered hw (hquiet1.trans hquiet2) s.regs.pc false

/-! ## The decision at a boundary (R305, R306, R308) -/

theorem boundaryKind_of_nmiSeen {s : State} (h : nmiSeen s = true) : boundaryKind s = .nmi := by
  rw [boundaryKind, if_pos h]

theorem boundaryKind_of_irq {s : State} (hnmi : nmiSeen s = false) (hline : irqLine s = true)
    (hmask : s.regs.p.i = false) : boundaryKind s = .irq := by
  simp [boundaryKind, hnmi, hline, hmask]

/-- At a boundary that begins no instruction, the step is the sequence that begins there. -/
theorem step_of_interrupt {s : State} (hrun : s.run ≠ .uninitialized) (hseq : s.seq = none)
    (hkind : boundaryKind s ≠ .instr) : step s = runMicro (seqMicro (boundaryKind s) s.regs) s := by
  unfold step
  split
  case h_1 hun => exact absurd hun hrun
  case h_2 =>
    cases hk : boundaryKind s with
    | instr => exact absurd hk hkind
    | irq | nmi | reset => simp only [hseq]

/-- Settles O21: the boundary begins the IRQ sequence, which the entry with a possible takeover completes. -/
theorem irqIsTakenAtABoundary : Obligations.IrqIsTakenAtABoundary := by
  intro s hrun hseq hnmi hline hmask hw hready hpc
  have hkind := boundaryKind_of_irq hnmi hline hmask
  rw [step_of_interrupt hrun hseq (by simp [hkind]), hkind]
  exact runMicro_irqMicro hw hready hpc

/-- Settles O22: the boundary begins the NMI sequence whatever `I` and `irq_line` hold, and its first cycle clears the latch. -/
theorem nmiIsTakenBeforeEverything : Obligations.NmiIsTakenBeforeEverything := by
  intro s hrun hseq hnmi hw hready hpc
  have hkind := boundaryKind_of_nmiSeen hnmi
  rw [step_of_interrupt hrun hseq (by simp [hkind]), hkind]
  exact runMicro_nmiMicro hw hready hpc

end Sys2Proof.Machine
end

section
/-! The obligations about the registers and the control lines of the timer chips (O46, O47, O48, O50, O60), and the laws of a
chip's flags and of its cycle they rest on. -/

namespace Sys2Proof.Machine

/-! ## Setting and clearing flags -/

theorem getLsbD_flagIf_same {i : Nat} (hi : i < 7) (b : Bool) (f : BitVec 7) :
    (flagIf b i f).getLsbD i = (f.getLsbD i || b) := by
  cases b with
  | false => rw [flagIf, if_neg Bool.false_ne_true, Bool.or_false]
  | true => simp [flagIf, setFlag, hi]

theorem getLsbD_flagIf_ne {i j : Nat} (hij : i ≠ j) (b : Bool) (f : BitVec 7) :
    (flagIf b i f).getLsbD j = f.getLsbD j := by
  cases b with
  | false => rw [flagIf, if_neg Bool.false_ne_true]
  | true =>
    rw [flagIf, if_pos rfl, setFlag, ← BitVec.twoPow_eq, BitVec.getLsbD_or, BitVec.getLsbD_twoPow, decide_eq_false hij,
      Bool.and_false, Bool.or_false]

/-- Setting a flag on an event clears none. -/
theorem and_flagIf {f g : BitVec 7} (h : f &&& g = f) (b : Bool) (i : Nat) : f &&& flagIf b i g = f := by
  cases b with
  | false => exact h
  | true =>
    have hset : f &&& flagIf true i g = f ||| f &&& (1#7 <<< i) := by
      rw [flagIf, if_pos rfl, setFlag, BitVec.and_or_distrib_left, h]
    rw [hset]
    refine BitVec.eq_of_getLsbD_eq fun j _ => ?_
    rw [BitVec.getLsbD_or, BitVec.getLsbD_and]
    exact sup_inf_self

/-- R348: what a port B access clears. -/
theorem clearPortBFlags_ifr (c : Via) : (clearPortBFlags c).ifr =
    c.ifr &&& ~~~(if independentMode (cb2Mode c.pcr) then 0x10#7 else 0x18#7) := by
  cases hm : independentMode (cb2Mode c.pcr) with
  | false => simp [clearPortBFlags, clearFlag, hm, BitVec.and_assoc]
  | true => simp [clearPortBFlags, clearFlag, hm]

/-- R349: what a port A access through register 1 clears. -/
theorem clearPortAFlags_ifr (c : Via) : (clearPortAFlags c).ifr =
    c.ifr &&& ~~~(if independentMode (ca2Mode c.pcr) then 0x02#7 else 0x03#7) := by
  cases hm : independentMode (ca2Mode c.pcr) with
  | false => simp [clearPortAFlags, clearFlag, hm, BitVec.and_assoc]
  | true => simp [clearPortAFlags, clearFlag, hm]

theorem and_not_zero (f : BitVec 7) : f &&& ~~~0#7 = f := by
  rw [BitVec.not_zero, BitVec.and_allOnes]

/-! ## What a cycle can do (R368) -/

/-- Everything a timer 1 step can do: beside the timer's own state it sets its flag or leaves it. -/
theorem timer1Step_eq (c : Via) : ∃ counter armed loaded level timeout, timer1Step c =
    { c with
      t1c := counter, t1Armed := armed, t1Loaded := loaded, pb7 := level, ifr := flagIf timeout 6 c.ifr } := by
  unfold timer1Step
  split
  · exact ⟨_, _, _, _, false, rfl⟩
  split
  · exact ⟨_, _, _, _, false, rfl⟩
  split
  · exact ⟨_, _, _, _, true, rfl⟩
  split
  · exact ⟨_, _, _, _, true, rfl⟩
  · exact ⟨_, _, _, _, false, rfl⟩

/-- Everything a timer 2 step can do: beside the timer's own state it sets its flag or leaves it. -/
theorem timer2Step_eq (c : Via) : ∃ counter armed loaded timeout, timer2Step c =
    { c with t2c := counter, t2Armed := armed, t2Loaded := loaded, ifr := flagIf timeout 5 c.ifr } := by
  unfold timer2Step
  split
  · exact ⟨_, _, _, false, rfl⟩
  split
  · exact ⟨_, _, _, false, rfl⟩
  split
  · exact ⟨_, _, _, false, rfl⟩
  split
  · exact ⟨_, _, _, true, rfl⟩
  · exact ⟨_, _, _, false, rfl⟩

/-- Everything a cycle can do: after the control lines, the timers change their own state and set their own flags. -/
theorem viaCycle_eq (pins : PortInputs) (c : Via) :
    ∃ counter1 armed1 loaded1 level counter2 armed2 loaded2 timeout1 timeout2, viaCycle pins c =
      { controlStep pins c with
        t1c := counter1, t1Armed := armed1, t1Loaded := loaded1, pb7 := level
        t2c := counter2, t2Armed := armed2, t2Loaded := loaded2
        ifr := flagIf timeout2 5 (flagIf timeout1 6 (controlStep pins c).ifr) } := by
  obtain ⟨counter1, armed1, loaded1, level, timeout1, h1⟩ := timer1Step_eq (controlStep pins c)
  obtain ⟨counter2, armed2, loaded2, timeout2, h2⟩ := timer2Step_eq (timer1Step (controlStep pins c))
  refine ⟨counter1, armed1, loaded1, level, counter2, armed2, loaded2, timeout1, timeout2, ?_⟩
  rw [viaCycle, h2, h1]

/-- The control lines of a cycle set the flags of the lines with an active edge (R364, R365). -/
theorem controlStep_ifr (pins : PortInputs) (c : Via) : (controlStep pins c).ifr =
    flagIf (modeEdge (cb2Mode c.pcr) c.cb2Prev pins.cb2) 3 (flagIf (modeEdge (ca2Mode c.pcr) c.ca2Prev pins.ca2) 0
      (flagIf (activeEdge (bitOf c.pcr 4) c.cb1Prev pins.cb1) 4
        (flagIf (activeEdge (bitOf c.pcr 0) c.ca1Prev pins.ca1) 1 c.ifr))) := rfl

/-- R361: a cycle clears no flag, for the lines and the timers only set flags. -/
theorem and_viaCycle_ifr (pins : PortInputs) (c : Via) : c.ifr &&& (viaCycle pins c).ifr = c.ifr := by
  obtain ⟨_, _, _, _, _, _, _, timeout1, timeout2, h⟩ := viaCycle_eq pins c
  have hlines : c.ifr &&& (controlStep pins c).ifr = c.ifr := by
    rw [controlStep_ifr]
    exact and_flagIf (and_flagIf (and_flagIf (and_flagIf BitVec.and_self _ _) _ _) _ _) _ _
  rw [h]
  exact and_flagIf (and_flagIf hlines timeout1 6) timeout2 5

/-- The five flags beside the timers' are after a cycle what the control lines left. -/
theorem viaCycle_ifr_getLsbD (pins : PortInputs) (c : Via) {i : Nat} (h5 : i ≠ 5) (h6 : i ≠ 6) :
    (viaCycle pins c).ifr.getLsbD i = (controlStep pins c).ifr.getLsbD i := by
  obtain ⟨_, _, _, _, _, _, _, timeout1, timeout2, h⟩ := viaCycle_eq pins c
  rw [h]
  exact (getLsbD_flagIf_ne h5.symm ..).trans (getLsbD_flagIf_ne h6.symm ..)

/-! ## What an access does to the flags (R361) -/

/-- A read clears the flags of its rule; the registers without one leave the flags as they are. -/
theorem viaRead_ifr (r : BitVec 4) (pins : PortInputs) (c : Via) :
    (viaRead r pins c).2.ifr = c.ifr &&& ~~~(clearedByRead r c.pcr) := by
  unfold viaRead
  split
  case h_1 hr => simp only [clearedByRead, hr, clearPortBFlags_ifr]
  case h_2 hr => simp only [clearedByRead, hr, clearPortAFlags_ifr]
  case h_5 hr | h_9 hr | h_11 hr =>
    simp only [clearedByRead, hr]
    rfl
  all_goals
    simp only [clearedByRead, *, and_not_zero]

/-- A write that is not refused clears the flags of its rule; the registers without one leave the flags as they are. -/
theorem viaWrite_ifr {r : BitVec 4} {v : Byte} {c c' : Via} (h : viaWrite r v c = .next c') :
    c'.ifr = c.ifr &&& ~~~(clearedByWrite r v c.pcr) := by
  unfold viaWrite at h
  split at h
  case h_12 hr | h_13 hr =>
    split at h
    · cases h
    · cases h
      simp only [clearedByWrite, hr, writePcr, and_not_zero]
  all_goals cases h
  case h_1 hr => simp only [clearedByWrite, hr, clearPortBFlags_ifr]
  case h_2 hr => simp only [clearedByWrite, hr, clearPortAFlags_ifr]
  case h_6 hr | h_8 hr | h_10 hr | h_11 hr =>
    simp only [clearedByWrite, hr]
    rfl
  case h_14 hr => simp only [clearedByWrite, hr]
  all_goals
    simp only [clearedByWrite, writeIer, *, and_not_zero]

/-- Settles O46: the laws of a cycle, of a read and of a write. -/
theorem flagsStayUntilCleared : Obligations.FlagsStayUntilCleared :=
  ⟨and_viaCycle_ifr, viaRead_ifr, fun _ _ _ _ => viaWrite_ifr⟩

/-! ## Edges of CA1 and CB1 (R364) -/

/-- Settles O50: the timers leave the two flags, the latches and the remembered levels as the control lines set them. -/
theorem controlLineEdges : Obligations.ControlLineEdges := by
  intro c p
  have hca1 : (controlStep p c).ifr.getLsbD 1 =
      (c.ifr.getLsbD 1 || activeEdge (bitOf c.pcr 0) c.ca1Prev p.ca1) := by
    rw [controlStep_ifr, getLsbD_flagIf_ne (by decide), getLsbD_flagIf_ne (by decide), getLsbD_flagIf_ne (by decide),
      getLsbD_flagIf_same (by decide)]
  have hcb1 : (controlStep p c).ifr.getLsbD 4 =
      (c.ifr.getLsbD 4 || activeEdge (bitOf c.pcr 4) c.cb1Prev p.cb1) := by
    rw [controlStep_ifr, getLsbD_flagIf_ne (by decide), getLsbD_flagIf_ne (by decide), getLsbD_flagIf_same (by decide),
      getLsbD_flagIf_ne (by decide)]
  refine ⟨(viaCycle_ifr_getLsbD p c (by decide) (by decide)).trans hca1,
    (viaCycle_ifr_getLsbD p c (by decide) (by decide)).trans hcb1, ?_⟩
  obtain ⟨_, _, _, _, _, _, _, _, _, h⟩ := viaCycle_eq p c
  rw [h]
  exact ⟨rfl, rfl, rfl, rfl⟩

/-! ## The interrupt output (R302, R362) -/

theorem ne_zero_iff_exists_getLsbD {w : Nat} (x : BitVec w) : x ≠ 0#w ↔ ∃ i, i < w ∧ x.getLsbD i = true := by
  simp [BitVec.eq_of_getLsbD_eq_iff]

/-- R362: a chip asserts its output exactly when some flag and its enable are both set. -/
theorem irqOut_iff (c : Via) :
    irqOut c = true ↔ ∃ i, i < 7 ∧ c.ifr.getLsbD i = true ∧ c.ier.getLsbD i = true := by
  simp only [irqOut, bne_iff_ne, ne_zero_iff_exists_getLsbD, BitVec.getLsbD_and, Bool.and_eq_true]

/-- R302: the line is asserted exactly when a chip asserts its output. -/
theorem irqLine_iff (s : State) : irqLine s = true ↔ irqOut s.viaA = true ∨ irqOut s.viaB = true := by
  rw [irqLine, Bool.or_eq_true]

/-- Settles O47: the two laws of the output, and registers D and E as the model reads and writes them (R360, R363). -/
theorem interruptRegisters : Obligations.InterruptRegisters :=
  ⟨irqOut_iff, irqLine_iff, fun _ _ => ⟨rfl, rfl⟩, fun _ _ => rfl, fun _ _ => rfl⟩

/-! ## The refused control values (R367) -/

/-- The rules name the two fields of `ACR`, the statement masks their bits. -/
theorem acr_fields_zero_iff_mask : ∀ v : Byte,
    (v.extractLsb' 2 3 = 0#3 ∧ bitOf v 5 = false) ↔ v &&& 0x3C#8 = 0#8 := by decide

/-- R367: the refused values of `ACR` are those with a bit of the shift mode or of pulse counting. -/
theorem acrRefusal_eq_none_iff (v : Byte) : acrRefusal v = none ↔ v &&& 0x3C#8 = 0#8 := by
  rw [← acr_fields_zero_iff_mask, acrRefusal]
  split
  case isTrue hshift => simp [bne_iff_ne.mp hshift]
  case isFalse hshift =>
    have hzero : v.extractLsb' 2 3 = 0#3 := by simpa using hshift
    cases hcount : bitOf v 5 <;> simp [hzero]

theorem handshakeMode_iff (m : BitVec 3) : handshakeMode m = true ↔ m = 4#3 ∨ m = 5#3 := by
  simp only [handshakeMode, Bool.or_eq_true, beq_iff_eq]

/-- R367: the refused values of `PCR` are those with a handshake or pulse output in a control field. -/
theorem pcrRefusal_ne_none_iff (v : Byte) : pcrRefusal v ≠ none ↔
    (v.extractLsb' 1 3 = 4#3 ∨ v.extractLsb' 1 3 = 5#3) ∨ (v.extractLsb' 5 3 = 4#3 ∨ v.extractLsb' 5 3 = 5#3) := by
  have hmodes : pcrRefusal v ≠ none ↔ (handshakeMode (ca2Mode v) || handshakeMode (cb2Mode v)) = true := by
    simp only [pcrRefusal, ne_eq, ite_eq_right_iff, reduceCtorEq, imp_false, not_not]
  rw [hmodes, Bool.or_eq_true, handshakeMode_iff, handshakeMode_iff]
  exact Iff.rfl

/-- R367: a write of `ACR` is refused for its reason, or stores the value and does nothing else. -/
theorem viaWrite_acr (v : Byte) (c : Via) :
    viaWrite 11#4 v c = (acrRefusal v).elim (.next { c with acr := v }) .refused := by
  cases h : acrRefusal v <;> simp [viaWrite, h]

/-- R367: a write of `PCR` is refused for its reason, or stores the value and drives the manual outputs. -/
theorem viaWrite_pcr (v : Byte) (c : Via) :
    viaWrite 12#4 v c = (pcrRefusal v).elim (.next (writePcr v c)) .refused := by
  cases h : pcrRefusal v <;> simp [viaWrite, h]

theorem elim_next_eq_refused_iff {o : Option Refusal} {d : Via} :
    (∃ e, o.elim (.next d : Result Via) .refused = .refused e) ↔ o ≠ none := by
  cases o <;> simp

theorem elim_next_eq_next_iff {o : Option Refusal} {d c : Via} :
    o.elim (.next d : Result Via) .refused = .next c ↔ o = none ∧ d = c := by
  cases o <;> simp

/-- Settles O48: each of the two writes goes on exactly without a reason to refuse it, and the reasons are the rule's values. -/
theorem refusedTimerModes : Obligations.RefusedTimerModes := by
  refine ⟨fun v c => ⟨?_, fun c' h => ?_⟩, fun v c => ⟨?_, fun c' h => ?_, rfl, rfl, fun _ => ⟨rfl, rfl⟩⟩⟩
  · rw [viaWrite_acr, elim_next_eq_refused_iff, Ne, acrRefusal_eq_none_iff]
  · rw [viaWrite_acr, elim_next_eq_next_iff] at h
    obtain ⟨-, rfl⟩ := h
    exact ⟨rfl, fun _ => rfl⟩
  · rw [viaWrite_pcr, elim_next_eq_refused_iff, pcrRefusal_ne_none_iff]
  · rw [viaWrite_pcr, elim_next_eq_next_iff] at h
    obtain ⟨-, rfl⟩ := h
    exact ⟨rfl, fun _ => rfl⟩

/-! ## The timers' registers (R351, R352, R355) -/

/-- The flag of timer 1 is bit 6. -/
theorem clearFlag_timer1 (f : BitVec 7) : clearFlag f 6 = f &&& 0x3F#7 := rfl

/-- The flag of timer 2 is bit 5. -/
theorem clearFlag_timer2 (f : BitVec 7) : clearFlag f 5 = f &&& 0x5F#7 := rfl

/-- Settles O60: each access is the model's case for its register, with the clearing of its timer's flag written as a mask. -/
theorem timerRegisterAccesses : Obligations.TimerRegisterAccesses := by
  refine ⟨fun v c => ⟨rfl, rfl, ?write7, ?write5, rfl, ?write9⟩, fun pins c => ⟨?read4, rfl, rfl, rfl, ?read8, rfl⟩⟩
  case write5 | write7 | read4 =>
    rw [← clearFlag_timer1]
    rfl
  case write9 | read8 =>
    rw [← clearFlag_timer2]
    rfl

end Sys2Proof.Machine
end

section
/-! The obligation about the raster (O52), and the position of a running raster as one count of its clocks (R421). -/

namespace Sys2Proof.Machine

/-! ## A count of clocks as a line and a cycle in it -/

/-- Two counts agree in a product of moduli exactly when the places within a line and the lines agree. -/
theorem mod_mul_eq_iff {a b p q : Nat} : p % (a * b) = q % (a * b) ↔ p % a = q % a ∧ p / a % b = q / a % b := by
  constructor
  · intro h
    have hline : p % (a * b) / a = q % (a * b) / a := by rw [h]
    rw [Nat.mod_mul_right_div_self, Nat.mod_mul_right_div_self] at hline
    exact ⟨Nat.ModEq.of_mul_right b h, hline⟩
  · rintro ⟨hplace, hline⟩
    rw [Nat.mod_mul, Nat.mod_mul, hplace, hline]

/-- From any count, exactly one of the next `n` clocks brings it to a given remainder. -/
theorem exists_unique_add_mod {n : Nat} (hn : 0 < n) (p q : Nat) :
    ∃ k, k < n ∧ (p + k) % n = q % n ∧ ∀ j, j < n → (p + j) % n = q % n → j = k := by
  have hmeet : (p + (q + (n - p % n)) % n) % n = q % n := by
    have hp := Nat.div_add_mod p n
    have hlt := Nat.mod_lt p hn
    have hsum : p + (q + (n - p % n)) = q + n * (p / n + 1) := by rw [Nat.mul_succ]; omega
    rw [Nat.add_mod_mod, hsum, Nat.add_mul_mod_self_left]
  refine ⟨_, Nat.mod_lt _ hn, hmeet, fun j hj hjq => ?_⟩
  exact (Nat.ModEq.add_left_cancel' p (hjq.trans hmeet.symm)).eq_of_lt_of_lt hj (Nat.mod_lt _ hn)

/-! ## One raster advance (R421) -/

theorem rasterStep_h (cfg : Config) (c : Vic) :
    (rasterStep cfg c).h = if c.h = cfg.timing.lineCycles - 1 then 0 else c.h + 1 := by
  simp only [rasterStep, beq_iff_eq]

theorem rasterStep_vPend_iff (cfg : Config) (c : Vic) :
    (rasterStep cfg c).vPend = true ↔ c.h = cfg.timing.lineCycles - 1 := beq_iff_eq

theorem rasterStep_v (cfg : Config) (c : Vic) :
    (rasterStep cfg c).v = if c.vPend then (c.v + 1) % cfg.lines else c.v := rfl

/-- An advance steps `h` through the line and notes the line end by the `h` it reaches. -/
theorem rasterStep_in_line {cfg : Config} {c : Vic} (h : c.h < cfg.timing.lineCycles) :
    (rasterStep cfg c).h = (c.h + 1) % cfg.timing.lineCycles ∧
      (rasterStep cfg c).vPend = ((rasterStep cfg c).h == 0) := by
  have hpend := rasterStep_vPend_iff cfg c
  by_cases hend : c.h = cfg.timing.lineCycles - 1
  · have hh : (rasterStep cfg c).h = 0 := by rw [rasterStep_h, if_pos hend]
    have hwrap : c.h + 1 = cfg.timing.lineCycles := by omega
    exact ⟨by rw [hh, hwrap, Nat.mod_self], by rw [hh, hpend.mpr hend]; rfl⟩
  · have hh : (rasterStep cfg c).h = c.h + 1 := by rw [rasterStep_h, if_neg hend]
    rw [hh, Nat.mod_eq_of_lt (by omega)]
    exact ⟨rfl, Bool.eq_false_iff.mpr fun hp => hend (hpend.mp hp)⟩

theorem rasterSteps_add (cfg : Config) (m n : Nat) (c : Vic) :
    rasterSteps cfg (m + n) c = rasterSteps cfg n (rasterSteps cfg m c) := by
  induction m generalizing c with
  | zero => rw [Nat.zero_add]; rfl
  | succ m ih => rw [Nat.add_right_comm]; exact ih _

theorem rasterSteps_succ (cfg : Config) (n : Nat) (c : Vic) :
    rasterSteps cfg (n + 1) c = rasterStep cfg (rasterSteps cfg n c) := rasterSteps_add cfg n 1 c

/-! ## The running raster -/

/-- The raster `p` clocks after `v` became 0 (R421). Then it was at `h = 1` (in a line of one cycle, at 0), for `v` moves one cycle
after `h` wraps. -/
structure RasterAt (cfg : Config) (p : Nat) (c : Vic) : Prop where
  h : c.h = (p + 1) % cfg.timing.lineCycles
  v : c.v = p / cfg.timing.lineCycles % cfg.lines
  vPend : c.vPend = (c.h == 0)

section
variable {cfg : Config} {c : Vic} {p : Nat}

theorem RasterAt.vPend_iff (hc : RasterAt cfg p c) : c.vPend = true ↔ (p + 1) % cfg.timing.lineCycles = 0 := by
  rw [hc.vPend, beq_iff_eq, hc.h]

/-- The vertical counter of the next clock is the line of the next count. -/
theorem RasterAt.nextV (hc : RasterAt cfg p c) : nextV cfg c = (p + 1) / cfg.timing.lineCycles % cfg.lines := by
  simp only [Machine.nextV, Nat.succ_div, Nat.dvd_iff_mod_eq_zero, hc.vPend_iff, hc.v]
  split
  · exact Nat.mod_add_mod ..
  · rfl

theorem RasterAt.rasterStep (hH : 0 < cfg.timing.lineCycles) (hc : RasterAt cfg p c) :
    RasterAt cfg (p + 1) (rasterStep cfg c) := by
  obtain ⟨hh, hpend⟩ := rasterStep_in_line (cfg := cfg) (c := c) (hc.h ▸ Nat.mod_lt _ hH)
  exact ⟨by rw [hh, hc.h, Nat.mod_add_mod], hc.nextV, hpend⟩

theorem RasterAt.rasterSteps (hH : 0 < cfg.timing.lineCycles) (hc : RasterAt cfg p c) (n : Nat) :
    RasterAt cfg (p + n) (rasterSteps cfg n c) := by
  induction n with
  | zero => exact hc
  | succ n ih => rw [rasterSteps_succ]; exact ih.rasterStep hH

/-- A reset raster runs from its first advance on. -/
theorem rasterAt_zero_of_reset (hH : 0 < cfg.timing.lineCycles) (hh : c.h = 0) (hv : c.v = 0) (hpend : c.vPend = false) :
    RasterAt cfg 0 (rasterStep cfg c) := by
  obtain ⟨hnext, hnote⟩ := rasterStep_in_line (cfg := cfg) (c := c) (hh ▸ hH)
  refine ⟨by rw [hnext, hh], ?_, hnote⟩
  rw [rasterStep_v, hpend, hv, Nat.zero_div, Nat.zero_mod]
  rfl

theorem rasterAt_of_reset (hH : 0 < cfg.timing.lineCycles) (hh : c.h = 0) (hv : c.v = 0) (hpend : c.vPend = false) (n : Nat) :
    RasterAt cfg n (rasterSteps cfg (n + 1) c) := by
  have h := (rasterAt_zero_of_reset hH hh hv hpend).rasterSteps hH n
  rwa [Nat.zero_add] at h

/-- Every position of the frame is that of a count. -/
theorem exists_count_of_position {h v : Nat} (hh : h < cfg.timing.lineCycles) (hv : v < cfg.lines) :
    ∃ p, (p + 1) % cfg.timing.lineCycles = h ∧ p / cfg.timing.lineCycles % cfg.lines = v := by
  generalize cfg.timing.lineCycles = H at *
  have hH : 0 < H := by omega
  obtain ⟨r, hr, hrh⟩ : ∃ r, r < H ∧ (r + 1) % H = h := by
    cases h with
    | zero => exact ⟨H - 1, by omega, by rw [Nat.sub_add_cancel hH, Nat.mod_self]⟩
    | succ h => exact ⟨h, by omega, Nat.mod_eq_of_lt hh⟩
  refine ⟨H * v + r, ?_, ?_⟩
  · rw [Nat.add_assoc, Nat.mul_add_mod, hrh]
  · rw [Nat.mul_add_div hH, Nat.div_eq_of_lt hr, Nat.add_zero, Nat.mod_eq_of_lt hv]

/-- A raster that is inside the frame and has noted a line end exactly at `h = 0` is running. -/
theorem exists_rasterAt (hh : c.h < cfg.timing.lineCycles) (hv : c.v < cfg.lines) (hpend : c.vPend = (c.h == 0)) :
    ∃ p, RasterAt cfg p c := by
  obtain ⟨p, hph, hpv⟩ := exists_count_of_position hh hv
  exact ⟨p, hph.symm, hpv.symm, hpend⟩

/-- A running raster has the position of a count exactly when its own agrees with it in `H * V`. -/
theorem RasterAt.position_iff (hc : RasterAt cfg p c) (q : Nat) :
    c.h = (q + 1) % cfg.timing.lineCycles ∧ c.v = q / cfg.timing.lineCycles % cfg.lines ↔
      p % (cfg.timing.lineCycles * cfg.lines) = q % (cfg.timing.lineCycles * cfg.lines) := by
  rw [mod_mul_eq_iff, hc.h, hc.v]
  exact and_congr_left fun _ => ⟨Nat.ModEq.add_right_cancel' 1, Nat.ModEq.add_right 1⟩

end

/-- Settles O52: the advance by its equations, the rest by counting the clocks of a running raster. -/
theorem rasterVisitsEachPositionOnce : Obligations.RasterVisitsEachPositionOnce := by
  refine ⟨fun cfg c => ⟨rasterStep_h cfg c, rasterStep_vPend_iff cfg c, rasterStep_v cfg c⟩,
    fun cfg c hH hh hv hpend => ?reset, fun cfg c hh hv hpend => ?running⟩
  case reset =>
    have hd := rasterAt_of_reset hH hh hv hpend (cfg.timing.lineCycles - 1)
    rw [Nat.sub_add_cancel hH] at hd
    have hwrap : (cfg.timing.lineCycles - 1 + 1) % cfg.timing.lineCycles = 0 := by rw [Nat.sub_add_cancel hH, Nat.mod_self]
    refine ⟨hd.h.trans hwrap, ?_, hd.vPend_iff.mpr hwrap⟩
    rw [hd.v, Nat.div_eq_of_lt (Nat.sub_one_lt_of_lt hH), Nat.zero_mod]
  case running =>
    have hH := Nat.zero_lt_of_lt hh
    obtain ⟨p, hp⟩ := exists_rasterAt hh hv hpend
    have hrun := hp.rasterSteps hH
    intro n
    have hn : 0 < n := Nat.mul_pos hH (Nat.zero_lt_of_lt hv)
    constructor
    · have hend := hrun n
      obtain ⟨hendh, hendv⟩ := (hend.position_iff p).mpr (Nat.add_mod_right p n)
      have hback := hendh.trans hp.h.symm
      exact ⟨hback, hendv.trans hp.v.symm, by rw [hend.vPend, hback, hpend]⟩
    · intro h v hlth hltv
      obtain ⟨q, rfl, rfl⟩ := exists_count_of_position hlth hltv
      obtain ⟨k, hk, hmeet, honly⟩ := exists_unique_add_mod hn p q
      obtain ⟨hkh, hkv⟩ := ((hrun k).position_iff q).mpr hmeet
      exact ⟨k, hk, hkh, hkv, fun j hj hjh hjv => honly j hj (((hrun j).position_iff q).mp ⟨hjh, hjv⟩)⟩

end Sys2Proof.Machine
end

section
/-! The obligation about the video/audio chip's registers (O57), and what a write and a read of one do (R410, R411, R413). -/

namespace Sys2Proof.Machine

/-! ## Writes (R410, R413) -/

/-- A write is refused exactly when it sets interlace. -/
theorem vicWrite_eq_refused_iff (r : BitVec 4) (v : Byte) (c : Vic) :
    vicWrite r v c = .refused .unmodelledInterlace ↔ r = 0#4 ∧ v.getLsbD 7 = true := by
  simp [vicWrite, bitOf]

/-- A write that goes on changes the stored registers and nothing else. -/
theorem reg_of_vicWrite {r : BitVec 4} {v : Byte} {c c' : Vic} (h : vicWrite r v c = .next c') :
    c' = { c with reg := vicRegWrite r v c.reg } := by
  unfold vicWrite at h
  split at h
  · cases h
  · cases h
    rfl

/-- The registers that ignore writes. -/
theorem vicRegWrite_ignored {r : BitVec 4} (h : r = 4#4 ∨ r = 6#4 ∨ r = 7#4 ∨ r = 8#4 ∨ r = 9#4) (v : Byte) (g : VicRegs) :
    vicRegWrite r v g = g := by
  rcases h with rfl | rfl | rfl | rfl | rfl <;> rfl

/-- A write leaves every other register: the case split is on the register written. -/
theorem vicReg_vicRegWrite_ne {q r : BitVec 4} (h : q ≠ r) (v : Byte) (g : VicRegs) :
    vicReg (vicRegWrite r v g) q = vicReg g q := by
  have hne : q.toNat ≠ r.toNat := fun e => h (BitVec.eq_of_toNat_eq e)
  have hq := q.isLt
  unfold vicRegWrite
  split
  all_goals grind only [vicReg]

/-- The registers that hold a whole written byte and read as they are stored (R410). -/
def plainRegisters : List (BitVec 4) := [0#4, 1#4, 2#4, 5#4, 10#4, 11#4, 12#4, 13#4, 14#4, 15#4]

theorem mem_plainRegisters : ∀ r : BitVec 4, r ≠ 3#4 → r ≠ 4#4 → r ≠ 6#4 → r ≠ 7#4 → r ≠ 8#4 → r ≠ 9#4 →
    r ∈ plainRegisters := by decide

/-- R410, R411: after a write, a plain register reads back the byte. -/
theorem vicRead_vicRegWrite_plain {r : BitVec 4} (h : r ∈ plainRegisters) (v : Byte) (c : Vic) (clock : Nat) :
    vicRead r clock { c with reg := vicRegWrite r v c.reg } = v := by
  simp only [plainRegisters, List.mem_cons, List.not_mem_nil, or_false] at h
  rcases h with rfl | rfl | rfl | rfl | rfl | rfl | rfl | rfl | rfl | rfl
  all_goals rfl

/-- Register 3 takes the low seven bits of the byte. -/
theorem vicRegWrite_three (v : Byte) (g : VicRegs) :
    (vicRegWrite 3#4 v g).r3 = g.r3.extractLsb' 7 1 ++ v.extractLsb' 0 7 := rfl

/-! ## Reads (R411) -/

theorem vicRead_three (clock : Nat) (c : Vic) :
    vicRead 3#4 clock c = BitVec.ofBool (c.v % 2 == 1) ++ c.reg.r3.extractLsb' 0 7 := rfl

theorem vicRead_four (clock : Nat) (c : Vic) : vicRead 4#4 clock c = BitVec.ofNat 8 (c.v / 2) := rfl

theorem extractLsb'_append_low (x : BitVec 1) (y : BitVec 7) : (x ++ y : Byte).extractLsb' 0 7 = y := by
  revert x y; decide

theorem extractLsb'_append_high (x : BitVec 1) (y : BitVec 7) : (x ++ y : Byte).extractLsb' 7 1 = x := by
  revert x y; decide

/-- Register 4 is the vertical counter without its low bit, which is bit 7 of register 3. -/
theorem vicRead_raster {c : Vic} (hv : c.v < 512) (clock : Nat) :
    (vicRead 4#4 clock c).toNat * 2 + ((vicRead 3#4 clock c).extractLsb' 7 1).toNat = c.v := by
  have hbit : (BitVec.ofBool (c.v % 2 == 1)).toNat = c.v % 2 := by
    rcases Nat.mod_two_eq_zero_or_one c.v with h | h <;> rw [h] <;> rfl
  rw [vicRead_four, vicRead_three, extractLsb'_append_high, hbit, BitVec.toNat_ofNat]
  omega

/-- Settles O57: the laws of a write, of the reads after it and of the raster's two registers. -/
theorem videoRegisters : Obligations.VideoRegisters := by
  refine ⟨vicWrite_eq_refused_iff, fun r v c c' clock h => ?_, fun c clock hv => vicRead_raster hv clock⟩
  obtain rfl := reg_of_vicWrite h
  refine ⟨fun h3 h4 h6 h7 h8 h9 => ?stored, ?three, fun hr => ?ignored, fun q hq => vicReg_vicRegWrite_ne hq v c.reg⟩
  case stored => exact vicRead_vicRegWrite_plain (mem_plainRegisters r h3 h4 h6 h7 h8 h9) v c clock
  case three =>
    rintro rfl
    rw [vicRead_three, extractLsb'_append_low, vicRegWrite_three, extractLsb'_append_low]
  case ignored => rw [vicRegWrite_ignored hr]

end Sys2Proof.Machine
end

section
/-! The obligation about the voices (O58): a voice's counter, its shift register and the noise register (R441 to R443). -/

namespace Sys2Proof.Machine

/-! ## Shifting a bit in -/

/-- The model shifts and sets bit 0, the rule puts the low seven bits before the new bit. -/
theorem shiftLeft_or_bitByte : ∀ (sr : Byte) (b : Bool),
    sr <<< 1 ||| bitByte b = sr.extractLsb' 0 7 ++ BitVec.ofBool b := by decide

/-- The same for the sixteen bits of the noise register. -/
theorem shiftLeft_or_bitByte_setWidth (l : BitVec 16) (b : Bool) :
    l <<< 1 ||| (bitByte b).setWidth 16 = l.extractLsb' 0 15 ++ BitVec.ofBool b := by
  refine BitVec.eq_of_getLsbD_eq fun i hi => ?_
  rw [BitVec.getLsbD_append]
  cases i with
  | zero => cases b <;> simp [bitByte]
  | succ i =>
    have hlow : i < 15 := by omega
    have hget : l.getLsbD i = l[i] := BitVec.getLsbD_eq_getElem _
    cases b <;> simp [bitByte, hi, hlow, hget]

/-- R443: the noise register shifts in the exclusive or of its four taps. -/
theorem lfsrStep_eq (l : BitVec 16) : lfsrStep l = l.extractLsb' 0 15 ++
    BitVec.ofBool (xor (l.getLsbD 3) (xor (l.getLsbD 12) (xor (l.getLsbD 14) (l.getLsbD 15)))) := by
  rw [lfsrStep, Bool.xor_assoc, shiftLeft_or_bitByte_setWidth]

/-! ## Tone voices (R441, R442) -/

/-- The shift register of a tone voice after a step (R442). -/
def toneShift (sr : Byte) : Byte := sr.extractLsb' 0 7 ++ BitVec.ofBool (!sr.getLsbD 7)

section
variable (f : BitVec 7)

theorem toneClock_running {w : Voice} (h : w.cnt ≠ 0#7) : toneClock f w = { w with cnt := w.cnt - 1 } := by
  rw [toneClock, if_neg (by simpa using h)]

theorem toneClock_expired {w : Voice} (h : w.cnt = 0#7) : toneClock f w = ⟨f, toneShift w.sr⟩ := by
  rw [toneClock, if_pos (by simpa using h), shiftLeft_or_bitByte]
  rfl

theorem toneClocks_add (m n : Nat) (w : Voice) : toneClocks f (m + n) w = toneClocks f n (toneClocks f m w) := by
  induction m generalizing w with
  | zero => rw [Nat.zero_add]; rfl
  | succ m ih => rw [Nat.add_right_comm]; exact ih _

/-- Until the counter has run out, only it moves. -/
theorem toneClocks_running {n : Nat} {w : Voice} (h : n ≤ w.cnt.toNat) :
    toneClocks f n w = { w with cnt := w.cnt - BitVec.ofNat 7 n } := by
  induction n with
  | zero => rw [BitVec.sub_zero]; rfl
  | succ n ih =>
    have hlt := w.cnt.isLt
    have hne : w.cnt - BitVec.ofNat 7 n ≠ 0#7 := by bv_omega
    rw [toneClocks_add, ih (Nat.le_of_succ_le h)]
    refine (toneClock_running f hne).trans (congrArg (Voice.mk · w.sr) ?_)
    bv_omega

/-- The clock after that reloads the counter and shifts the register. -/
theorem toneClocks_step (w : Voice) : toneClocks f (w.cnt.toNat + 1) w = ⟨f, toneShift w.sr⟩ := by
  rw [toneClocks_add, toneClocks_running f le_rfl, BitVec.ofNat_toNat, BitVec.setWidth_eq, BitVec.sub_self]
  exact toneClock_expired f (w := ⟨0#7, w.sr⟩) rfl

/-- R441: from a reload on, the register steps once in every `F + 1` clocks. -/
theorem toneClocks_steps (k : Nat) (sr : Byte) : toneClocks f ((f.toNat + 1) * k) ⟨f, sr⟩ = ⟨f, toneShift^[k] sr⟩ := by
  induction k with
  | zero => rfl
  | succ k ih =>
    rw [Nat.mul_succ, toneClocks_add, ih, Function.iterate_succ_apply']
    exact toneClocks_step f ⟨f, toneShift^[k] sr⟩

end

/-- R442: sixteen steps bring the zero register back. -/
theorem toneShift_isPeriodicPt : Function.IsPeriodicPt toneShift 16 0#8 := by decide

/-- R442: the square wave over one period. -/
theorem toneShift_wave_period : ∀ k < 16, (toneShift^[k + 1] 0#8).getLsbD 0 = decide (k < 8) := by decide

/-- R442: bit 0 is 1 in eight steps and 0 in the next eight. -/
theorem toneShift_wave (k : Nat) : (toneShift^[k + 1] 0#8).getLsbD 0 = true ↔ k % 16 < 8 := by
  have hperiod : toneShift^[k + 1] 0#8 = toneShift^[k % 16 + 1] 0#8 := by
    rw [Function.iterate_succ_apply', Function.iterate_succ_apply', toneShift_isPeriodicPt.iterate_mod_apply]
  rw [hperiod, toneShift_wave_period _ (Nat.mod_lt k (by decide)), decide_eq_true_iff]

/-! ## The noise voice (R443) -/

theorem noiseClock_running (f : BitVec 7) (l : BitVec 16) {w : Voice} (h : w.cnt ≠ 0#7) :
    noiseClock f l w = ({ w with cnt := w.cnt - 1 }, l) := by
  rw [noiseClock, if_neg (by simpa using h)]

theorem noiseClock_expired (f : BitVec 7) (l : BitVec 16) {w : Voice} (h : w.cnt = 0#7) :
    let sr : Byte := w.sr.extractLsb' 0 7 ++ BitVec.ofBool (Config.noiseFeedback w.sr l)
    noiseClock f l w = (⟨f, sr⟩, if w.sr.getLsbD 0 = false ∧ sr.getLsbD 0 = true then lfsrStep l else l) := by
  intro sr
  rw [noiseClock, if_pos (by simpa using h), shiftLeft_or_bitByte]
  simp only [bitOf, Bool.and_eq_true, Bool.not_eq_true']
  rfl

/-! ## The obligation -/

/-- Settles O58: the tone voice by its countdown and the period of its shift register, the noise voice by its two cases. -/
theorem toneVoiceSquareWave : Obligations.ToneVoiceSquareWave := by
  refine ⟨fun f w => ⟨toneClocks_step f w, fun n hn => ?running⟩, fun f k => ⟨?counter, ?wave, fun hk => ?zero⟩,
    fun f l w => ⟨noiseClock_running f l, fun h => ?noise⟩⟩
  case running => rw [toneClocks_running f hn]
  case counter => rw [toneClocks_steps]
  case wave =>
    rw [toneClocks_steps]
    exact toneShift_wave k
  case zero =>
    rw [toneClocks_steps, ← toneShift_isPeriodicPt.iterate_mod_apply, hk]
    rfl
  case noise => rw [noiseClock_expired f l h, lfsrStep_eq]

end Sys2Proof.Machine
end

section
/-! The obligation about frames (O53): what a call of `step_cycle()` does to the video/audio chip and its sink, in which clocks of
a running raster a frame is complete, and how many of them a run holds (R420, R421, R436, R470). -/

namespace Sys2Proof.Machine

/-! ## The raster in a cycle of the chip (R420) -/

/-- Two chips with the same raster. -/
structure SameRaster (c d : Vic) : Prop where
  h : c.h = d.h
  v : c.v = d.v
  vPend : c.vPend = d.vPend

section
variable {cfg : Config} {b c d : Vic}

theorem SameRaster.refl (c : Vic) : SameRaster c c := ⟨rfl, rfl, rfl⟩

theorem SameRaster.trans (h : SameRaster b c) (k : SameRaster c d) : SameRaster b d :=
  ⟨h.h.trans k.h, h.v.trans k.v, h.vPend.trans k.vPend⟩

theorem SameRaster.nextV (h : SameRaster c d) : nextV cfg c = nextV cfg d := by
  simp only [Machine.nextV, h.v, h.vPend]

theorem SameRaster.rasterStep (h : SameRaster c d) : SameRaster (rasterStep cfg c) (rasterStep cfg d) :=
  ⟨by rw [rasterStep_h, rasterStep_h, h.h], h.nextV, by simp only [Machine.rasterStep, h.h]⟩

theorem SameRaster.frameComplete (h : SameRaster c d) : frameComplete cfg c = frameComplete cfg d := by
  simp only [Machine.frameComplete, h.nextV, h.vPend]

theorem sameRaster_fetchStep (m : List Host.Cell) (draw : Byte) : SameRaster (fetchStep cfg m draw c) c := by
  obtain ⟨hh, hv, hpend, -⟩ := fetchCase_raster cfg m draw c
  unfold fetchStep
  split <;> exact ⟨hh, hv, hpend⟩

theorem sameRaster_sampleStep : SameRaster (sampleStep cfg c).1 c := by
  unfold sampleStep
  simp only []
  split <;> exact ⟨rfl, rfl, rfl⟩

/-- Before its raster advance, a cycle leaves the raster; it reports a frame from the raster it starts with. -/
theorem raster_of_vicCycle {m : List Host.Cell} {clock : Nat} {o : Vic × ClockOut} (h : vicCycle cfg m clock c = .next o) :
    SameRaster o.1 (rasterStep cfg c) ∧ o.2.frame = frameComplete cfg c := by
  rw [vicCycle_eq (fs_of_vicCycle h)] at h
  cases h
  have hfetch := sameRaster_fetchStep (cfg := cfg) (c := shiftPipe c) m (Config.videoAbsentRead clock)
  have hvoices : SameRaster (voicesStep cfg (fetchStep cfg m (Config.videoAbsentRead clock) (shiftPipe c))) c :=
    ⟨hfetch.h, hfetch.v, hfetch.vPend⟩
  exact ⟨(sameRaster_sampleStep.trans hvoices).rasterStep, rfl⟩

/-- R436: a frame is complete when the advance changes `v` to `first_visible`. -/
theorem frameComplete_iff : frameComplete cfg c = true ↔ c.vPend = true ∧ (rasterStep cfg c).v = cfg.timing.firstVisible := by
  simp only [frameComplete, Bool.and_eq_true, beq_iff_eq]
  rfl

end

/-! ## The chip in one call of `step_cycle()` (R470) -/

/-- What the processor's part of a clock leaves of the video/audio chip and the sink: it may write the chip's registers. -/
structure VideoKept (s t : State) : Prop where
  cfg : t.cfg = s.cfg
  sink : t.sink = s.sink
  vic : ∃ g, t.vic = { s.vic with reg := g }

/-- A clock ran the chip from `s` to `c` with the outputs `out`, and the processor at most wrote the chip's registers after. -/
structure VideoRan (s t : State) (c : Vic) (out : ClockOut) : Prop where
  cycle : vicCycle s.cfg s.mem s.clock s.vic = .next (c, out)
  cfg : t.cfg = s.cfg
  sink : t.sink = out :: s.sink
  vic : ∃ g, t.vic = { c with reg := g }

section
variable {s t u : State}

theorem VideoKept.refl (s : State) : VideoKept s s := ⟨rfl, rfl, _, rfl⟩

theorem VideoKept.trans (h : VideoKept s t) (k : VideoKept t u) : VideoKept s u := by
  obtain ⟨hcfg, hsink, g, hvic⟩ := h
  obtain ⟨kcfg, ksink, g', kvic⟩ := k
  exact ⟨kcfg.trans hcfg, ksink.trans hsink, g', by rw [kvic, hvic]⟩

theorem videoKept_busRead {a : Word} {o : Byte × State} (h : busRead a s = .next o) : VideoKept s o.2 := by
  unfold busRead at h
  split at h <;> cases h
  all_goals exact ⟨rfl, rfl, _, rfl⟩

theorem videoKept_busFetch {a : Word} {o : Byte × State} (h : busFetch a s = .next o) : VideoKept s o.2 := by
  unfold busFetch at h
  split at h
  · cases h
    exact .refl s
  · exact videoKept_busRead h

theorem videoKept_busWrite {a : Word} {v : Byte} (h : busWrite a v s = .next t) : VideoKept s t := by
  unfold busWrite at h
  split at h
  case h_1 =>
    obtain ⟨c, hc, ht⟩ := andThen_eq_next.mp h
    cases ht
    exact ⟨rfl, rfl, _, reg_of_vicWrite hc⟩
  case h_2 | h_3 =>
    obtain ⟨c, -, ht⟩ := andThen_eq_next.mp h
    cases ht
    exact ⟨rfl, rfl, _, rfl⟩
  case h_4 => cases h
  all_goals
    cases h
    exact ⟨rfl, rfl, _, rfl⟩

theorem videoKept_busAccess {b : BusOp} {o : Byte × State} (h : busAccess b s = .next o) : VideoKept s o.2 := by
  cases b with
  | none =>
    cases h
    exact .refl s
  | read a => exact videoKept_busRead h
  | fetch a => exact videoKept_busFetch h
  | write a v =>
    obtain ⟨u, hu, ho⟩ := andThen_eq_next.mp h
    cases ho
    exact videoKept_busWrite hu

theorem videoKept_actOnNmi (act : NmiAct) (s : State) : VideoKept s (actOnNmi act s) := by
  unfold actOnNmi
  split
  case h_3 => split <;> exact ⟨rfl, rfl, _, rfl⟩
  all_goals exact ⟨rfl, rfl, _, rfl⟩

theorem videoKept_cpuPhase {b : BusOp} {act : NmiAct} {o : Obs × State} (h : cpuPhase b act s = .next o) :
    VideoKept s o.2 := by
  obtain ⟨x, hx, ho⟩ := andThen_eq_next.mp h
  cases ho
  have hnmi : VideoKept s (sampleNmi s) := ⟨rfl, rfl, _, rfl⟩
  exact (hnmi.trans (videoKept_actOnNmi act _)).trans (videoKept_busAccess hx)

/-- Everything a clock can do to the chip and the sink. -/
theorem videoRan_of_clock {b : BusOp} {act : NmiAct} {o : Obs × State} (h : clock b act s = .next o) :
    ∃ c out, VideoRan s o.2 c out := by
  obtain ⟨u, hu, h⟩ := andThen_eq_next.mp h
  obtain ⟨⟨c, out⟩, hcycle, hu⟩ := andThen_eq_next.mp hu
  obtain ⟨x, hx, ho⟩ := andThen_eq_next.mp h
  cases hu
  cases ho
  obtain ⟨hcfg, hsink, hvic⟩ := videoKept_cpuPhase hx
  exact ⟨c, out, hcycle, hcfg, hsink, hvic⟩

theorem VideoRan.congr_right {c : Vic} {out : ClockOut} (h : VideoRan s t c out) (k : VideoKept t u) : VideoRan s u c out := by
  obtain ⟨g, hvic⟩ := h.vic
  obtain ⟨kcfg, ksink, g', kvic⟩ := k
  exact ⟨h.cycle, kcfg.trans h.cfg, ksink.trans h.sink, g', by rw [kvic, hvic]⟩

end

/-! ## A sequence in progress has a cycle left to run (R30) -/

/-- A script that has not ended. -/
def HasCycle (m : Micro) : Prop := ∃ r b act next, m = .cycle r b act next

/-- The sequence in progress, where there is one, has not ended. -/
def SequenceRuns (s : State) : Prop := ∀ f, s.seq = some f → HasCycle (inFlightMicro f)

theorem resume_nil (m : Micro) : resume m [] = m := by
  cases m <;> rfl

theorem resume_append (m : Micro) (seen : List Obs) (o : Obs) : resume m (seen ++ [o]) = resume (resume m seen) [o] := by
  induction seen generalizing m with
  | nil => rw [List.nil_append, resume_nil]
  | cons x seen ih =>
    cases m with
    | cycle r b act next => exact ih (next x)
    | done r => rfl
    | refuse e => rfl

/-- Every sequence has a first cycle. -/
theorem hasCycle_seqMicro (k : Seq) (r : Regs) : HasCycle (seqMicro k r) := by
  cases k <;> exact ⟨_, _, _, _, rfl⟩

theorem hasCycle_currentSequence {s : State} (h : SequenceRuns s) : HasCycle (inFlightMicro (currentSequence s)) := by
  unfold currentSequence
  cases hseq : s.seq with
  | none =>
    obtain ⟨r, b, act, next, hfirst⟩ := hasCycle_seqMicro (boundaryKind s) s.regs
    exact ⟨r, b, act, next, (resume_nil _).trans hfirst⟩
  | some f => exact h f hseq

section
variable {s t : State}

/-- After a cycle the sequence has ended or has a cycle left to run. -/
theorem afterCycle_spec {f : InFlight} {o : Obs} {r : Regs} {b : BusOp} {act : NmiAct} {next : Obs → Micro}
    (hf : inFlightMicro f = .cycle r b act next) (h : afterCycle f o (next o) s = .next t) :
    SequenceRuns t ∧ VideoKept s t := by
  unfold afterCycle at h
  split at h
  case h_1 =>
    cases h
    exact ⟨nofun, rfl, rfl, _, rfl⟩
  case h_2 => cases h
  case h_3 hnext =>
    cases h
    refine ⟨fun g hseq => ?_, rfl, rfl, _, rfl⟩
    cases hseq
    have hrest : resume (seqMicro f.kind f.start) (f.seen ++ [o]) = next o := by
      calc _ = resume (inFlightMicro f) [o] := resume_append _ _ o
        _ = next o := by rw [hf]; exact resume_nil (next o)
    exact ⟨_, _, _, _, hrest.trans hnext⟩

/-- Everything a call of `step_cycle()` can do to the chip and the sink: it runs one clock. -/
theorem stepCycle_video (hseq : SequenceRuns s) (h : stepCycle s = .next t) :
    SequenceRuns t ∧ ∃ c out, VideoRan s t c out := by
  obtain ⟨r, b, act, next, hmicro⟩ := hasCycle_currentSequence hseq
  unfold stepCycle at h
  split at h
  case h_1 => cases h
  case h_2 =>
    rw [hmicro] at h
    obtain ⟨o, hclock, hafter⟩ := andThen_eq_next.mp h
    obtain ⟨c, out, hran⟩ := videoRan_of_clock hclock
    obtain ⟨hruns, hkept⟩ := afterCycle_spec hmicro hafter
    obtain ⟨hcycle, hcfg, hsink, hvic⟩ := hran.congr_right hkept
    exact ⟨hruns, c, out, hcycle, hcfg, hsink, hvic⟩

/-! ## Runs of clocks -/

theorem runCycles_add (m n : Nat) (s : State) : runCycles (m + n) s = andThen (runCycles m s) (runCycles n) := by
  induction m generalizing s with
  | zero => rw [Nat.zero_add]; rfl
  | succ m ih =>
    rw [Nat.add_right_comm]
    calc andThen (stepCycle s) (runCycles (m + n))
        = andThen (stepCycle s) fun u => andThen (runCycles m u) (runCycles n) := congrArg _ (funext ih)
      _ = andThen (runCycles (m + 1) s) (runCycles n) := (andThen_assoc ..).symm

theorem runCycles_one (s : State) : runCycles 1 s = stepCycle s := by
  simp only [runCycles]
  cases stepCycle s <;> rfl

/-- The last call of a run. -/
theorem runCycles_succ_eq_next {n : Nat} (h : runCycles (n + 1) s = .next t) :
    ∃ u, runCycles n s = .next u ∧ stepCycle u = .next t := by
  rw [runCycles_add] at h
  obtain ⟨u, hu, ht⟩ := andThen_eq_next.mp h
  exact ⟨u, hu, (runCycles_one u).symm.trans ht⟩

/-- The raster of a run is the raster advanced once a call, whatever else the machine does. -/
theorem runCycles_raster {n : Nat} (hseq : SequenceRuns s) (h : runCycles n s = .next t) :
    SequenceRuns t ∧ t.cfg = s.cfg ∧ SameRaster t.vic (rasterSteps s.cfg n s.vic) := by
  induction n generalizing t with
  | zero =>
    cases h
    exact ⟨hseq, rfl, .refl _⟩
  | succ n ih =>
    obtain ⟨u, hu, ht⟩ := runCycles_succ_eq_next h
    obtain ⟨hruns, hcfg, hraster⟩ := ih hu
    obtain ⟨hruns', c, out, hran⟩ := stepCycle_video hruns ht
    obtain ⟨hc, -⟩ := raster_of_vicCycle hran.cycle
    obtain ⟨g, hvic⟩ := hran.vic
    have htc : SameRaster t.vic c := hvic ▸ ⟨rfl, rfl, rfl⟩
    refine ⟨hruns', hran.cfg.trans hcfg, htc.trans ?_⟩
    rw [rasterSteps_succ, ← hcfg]
    exact hc.trans (hcfg ▸ hraster.rasterStep)

/-- The last call of a run puts one clock's outputs into the sink, with the frame flag of the raster it found. -/
theorem runCycles_succ_sink {n : Nat} (hseq : SequenceRuns s) (h : runCycles (n + 1) s = .next t) :
    ∃ u out, runCycles n s = .next u ∧ t.sink = out :: u.sink ∧
      out.frame = frameComplete s.cfg (rasterSteps s.cfg n s.vic) := by
  obtain ⟨u, hu, ht⟩ := runCycles_succ_eq_next h
  obtain ⟨hruns, hcfg, hraster⟩ := runCycles_raster hseq hu
  obtain ⟨-, c, out, hran⟩ := stepCycle_video hruns ht
  obtain ⟨-, hframe⟩ := raster_of_vicCycle hran.cycle
  rw [hcfg, hraster.frameComplete] at hframe
  exact ⟨u, out, hu, hran.sink, hframe⟩

/-- What the last call of a run returns. -/
theorem frameFlag_of_runCycles {n : Nat} (hseq : SequenceRuns s) (h : runCycles (n + 1) s = .next t) :
    frameFlag t = frameComplete s.cfg (rasterSteps s.cfg n s.vic) := by
  obtain ⟨u, out, -, hsink, hframe⟩ := runCycles_succ_sink hseq h
  rw [frameFlag, hsink, ← hframe]
  rfl

/-- The completed frames of a run. -/
theorem frames_of_runCycles {n : Nat} (hseq : SequenceRuns s) (h : runCycles n s = .next t) :
    ((t.sink.take n).filter fun o => o.frame).length =
      Nat.count (fun k => frameComplete s.cfg (rasterSteps s.cfg k s.vic) = true) n := by
  induction n generalizing t with
  | zero => rfl
  | succ n ih =>
    obtain ⟨u, out, hu, hsink, hframe⟩ := runCycles_succ_sink hseq h
    rw [hsink, List.take_succ_cons, List.filter_cons, Nat.count_succ, ← ih hu, hframe]
    split <;> rfl

end

/-! ## The frames of a running raster (R436) -/

/-- A running raster completes a frame exactly in the clock that ends the line before `first_visible`. -/
theorem RasterAt.frameComplete_iff {cfg : Config} {c : Vic} {p : Nat} (hc : RasterAt cfg p c)
    (hH : 0 < cfg.timing.lineCycles) (hvisible : cfg.timing.firstVisible < cfg.lines) :
    frameComplete cfg c = true ↔ (p + 1) % (cfg.timing.lineCycles * cfg.lines) =
      cfg.timing.lineCycles * cfg.timing.firstVisible % (cfg.timing.lineCycles * cfg.lines) := by
  rw [mod_mul_eq_iff, Nat.mul_mod_right, Nat.mul_div_cancel_left _ hH, Nat.mod_eq_of_lt hvisible, ← hc.vPend_iff, ← hc.nextV]
  exact Machine.frameComplete_iff

/-- What holds at exactly one of the first `n` counts is counted once. -/
theorem count_eq_one {P : Nat → Prop} [DecidablePred P] {n k : Nat} (hk : k < n) (hP : P k)
    (honly : ∀ j, j < n → P j → j = k) : Nat.count P n = 1 := by
  rw [Nat.count_eq_card_filter_range, Finset.card_eq_one]
  refine ⟨k, Finset.ext fun j => ?_⟩
  simp only [Finset.mem_filter, Finset.mem_range, Finset.mem_singleton]
  exact ⟨fun ⟨hj, hPj⟩ => honly j hj hPj, fun h => h ▸ ⟨hk, hP⟩⟩

/-- Settles O53: the cycle's flag by the chip's equation, the run's flags by the counts of a running raster. -/
theorem oneFrameCompletionPerFrame : Obligations.OneFrameCompletionPerFrame := by
  refine ⟨fun cfg m clock c o h => ?cycle,
    fun s t hinv => ⟨fun hpend h => ?running, fun m hh hv hpend hfirst hm h => ?reset⟩⟩
  case cycle =>
    obtain ⟨hraster, hframe⟩ := raster_of_vicCycle h
    rw [hframe, frameComplete_iff, hraster.v]
  all_goals
    have hH := Nat.zero_lt_of_lt hinv.vic.h
    have hvisible : s.cfg.timing.firstVisible < s.cfg.lines := by
      have hwf := hinv.cfg
      simp only [Config.wf, Config.visibleFits, Bool.and_eq_true, decide_eq_true_eq] at hwf
      omega
  case running =>
    obtain ⟨p, hp⟩ := exists_rasterAt hinv.vic.h hinv.vic.v hpend
    rw [frames_of_runCycles hinv.seq h]
    have hframe := fun k => Nat.add_right_comm p k 1 ▸ (hp.rasterSteps hH k).frameComplete_iff hH hvisible
    obtain ⟨k, hk, hmeet, honly⟩ := exists_unique_add_mod (Nat.mul_pos hH (Nat.zero_lt_of_lt hvisible)) (p + 1)
      (s.cfg.timing.lineCycles * s.cfg.timing.firstVisible)
    exact count_eq_one hk ((hframe k).mpr hmeet) fun j hj hjf => honly j hj ((hframe j).mp hjf)
  case reset =>
    rw [frameFlag_of_runCycles hinv.seq h]
    have hline : 0 < s.cfg.timing.lineCycles * s.cfg.timing.firstVisible := Nat.mul_pos hH hfirst
    have hframe : s.cfg.timing.lineCycles * s.cfg.timing.firstVisible < s.cfg.timing.lineCycles * s.cfg.lines :=
      Nat.mul_lt_mul_of_pos_left hvisible hH
    cases m with
    | zero =>
      refine iff_of_false (fun hf => ?_) hline.ne
      obtain ⟨hnoted, -⟩ := frameComplete_iff.mp hf
      exact Bool.false_ne_true (hpend.symm.trans hnoted)
    | succ m =>
      rw [(rasterAt_of_reset hH hh hv hpend m).frameComplete_iff hH hvisible, Nat.mod_eq_of_lt hframe,
        Nat.mod_eq_of_lt (hm.trans_lt hframe)]

end Sys2Proof.Machine
end

section
/-! The obligation about `init` (O39): the refusals before it, its failures, and the state it starts the machine in (R474, R475,
R477, R479). -/

namespace Sys2Proof.Machine

/-! ## Before `init` (R474) -/

theorem stepCycle_uninitialized {s : State} (h : s.run = .uninitialized) : stepCycle s = .refused .notInitialised := by
  simp only [stepCycle, h]

theorem step_uninitialized {s : State} (h : s.run = .uninitialized) : step s = .refused .notInitialised := by
  simp only [step, h]

theorem hostCall_uninitialized {s : State} (h : s.run = .uninitialized) (k : State → State) :
    hostCall k s = .refused .notInitialised := by
  simp only [hostCall, h]

/-- A frame has at least one clock to run, and it is refused. -/
theorem stepFrame_uninitialized {s : State} (h : s.run = .uninitialized) : stepFrame s = .refused .notInitialised := by
  rw [stepFrame, stepUntilFrame, stepCycle_uninitialized h, andThen_refused]

/-- The first clock of the source's `step()` is refused, be it the first of a sequence or one inside a sequence. -/
theorem sourceStep_uninitialized {s : State} (h : s.run = .uninitialized) : sourceStep s = .refused .notInitialised := by
  cases hseq : s.seq with
  | none => simp only [sourceStep, hseq, stepCycle_uninitialized h, andThen_refused]
  | some f => simp only [sourceStep, hseq, andThen_next, runToBoundary, stepCycle_uninitialized h, andThen_refused]

/-! ## The expansion size (R91, R477) -/

theorem resolveSize_unrecognised {q : InitRequest} (hsize : q.size = .unrecognised) :
    resolveSize q = .error .unrecognisedExpansion := by
  simp only [resolveSize, hsize]

theorem resolveSize_failed {q : InitRequest} (hsize : q.size ≠ .unrecognised) (hsniff : q.sniff = .failed) :
    resolveSize q = .ok .none := by
  cases hq : q.size with
  | unrecognised => exact absurd hq hsize
  | fixed | auto => simp only [resolveSize, hq, hsniff]

theorem resolveSize_fixed {q : InitRequest} {e : Expansion} (hsize : q.size = .fixed e) (hsniff : q.sniff ≠ .failed) :
    resolveSize q = .ok e := by
  cases hq : q.sniff with
  | failed => exact absurd hq hsniff
  | noAddress | address => simp only [resolveSize, hsize, hq]

theorem resolveSize_auto_address {q : InitRequest} {a : Nat} (hsize : q.size = .auto) (hsniff : q.sniff = .address a) :
    resolveSize q = .ok (Config.autoExpansionRule a) := by
  simp only [resolveSize, hsize, hsniff]

theorem resolveSize_auto_noAddress {q : InitRequest} {e : Expansion} (hsize : q.size = .auto)
    (hsniff : q.sniff = .noAddress e) : resolveSize q = .ok e := by
  simp only [resolveSize, hsize, hsniff]

/-- An unrecognised size is the only one for which `init` finds no expansion. -/
theorem exists_resolveSize {q : InitRequest} (hsize : q.size ≠ .unrecognised) : ∃ e, resolveSize q = .ok e := by
  cases hq : q.size with
  | unrecognised => exact absurd hq hsize
  | fixed e =>
    by_cases hsniff : q.sniff = .failed
    · exact ⟨_, resolveSize_failed hsize hsniff⟩
    · exact ⟨e, resolveSize_fixed hq hsniff⟩
  | auto =>
    cases hsniff : q.sniff with
    | failed => exact ⟨_, resolveSize_failed hsize hsniff⟩
    | noAddress e => exact ⟨e, resolveSize_auto_noAddress hq hsniff⟩
    | address a => exact ⟨_, resolveSize_auto_address hq hsniff⟩

/-! ## The ROM buffers (R477, D49) -/

theorem wholeBuffer_of_length {n : Nat} {b : Option (List Byte)} {l : List Byte} (hb : b = some l) (hl : l.length = n) :
    wholeBuffer n b = some l := by
  simp only [wholeBuffer, hb, Option.bind_some, hl, beq_self_eq_true, if_true]

theorem wholeBuffer_eq_none {n : Nat} {b : Option (List Byte)} (h : ∀ l, b = some l → l.length ≠ n) :
    wholeBuffer n b = none := by
  cases b with
  | none => rfl
  | some l => simp only [wholeBuffer, Option.bind_some, beq_iff_eq, h l rfl, if_false]

/-! ## The starting state (R475, R479) -/

/-- The state of a cold start: `init`'s memory and configuration for the expansion `e`, after the machine's reset. -/
def coldStart (q : InitRequest) (e : Expansion) (chars basic kernel : List Byte) : State :=
  let cfg := { q.cfg with expansion := e, cartridgeSize := (cartridgeImage q).length }
  resetState q.draw (powerOn cfg q (initMemory cfg q chars basic kernel))

section
variable (q : InitRequest) (e : Expansion) (chars basic kernel : List Byte)

@[simp] theorem coldStart_run : (coldStart q e chars basic kernel).run = .ready := rfl

@[simp] theorem coldStart_expansion : (coldStart q e chars basic kernel).cfg.expansion = e := rfl

@[simp] theorem coldStart_seq_kind : (coldStart q e chars basic kernel).seq.map InFlight.kind = some .reset := rfl

@[simp] theorem coldStart_cycleIndex : cycleIndex (coldStart q e chars basic kernel) = 1 := rfl

end

@[simp] theorem startSnapshot_run (p : Snapshot) (s : State) : (startSnapshot p s).run = s.run := rfl

@[simp] theorem startSnapshot_cfg (p : Snapshot) (s : State) : (startSnapshot p s).cfg = s.cfg := rfl

@[simp] theorem startSnapshot_seq (p : Snapshot) (s : State) : (startSnapshot p s).seq = none := rfl

@[simp] theorem startSnapshot_cycleIndex (p : Snapshot) (s : State) : cycleIndex (startSnapshot p s) = 0 := rfl

theorem startState_failed {q : InitRequest} (hsniff : q.sniff = .failed) (s : State) : startState q s = .next s := by
  simp only [startState, hsniff]

theorem startState_cold {q : InitRequest} (hsnap : q.snapshot = none) (s : State) : startState q s = .next s := by
  cases hq : q.sniff with
  | failed => exact startState_failed hq s
  | noAddress | address => simp only [startState, hq, hsnap]

theorem startState_refused {q : InitRequest} {p : Snapshot} {r : Refusal} (hsniff : q.sniff ≠ .failed)
    (hsnap : q.snapshot = some p) (hp : snapshotRefusal p = some r) (s : State) : startState q s = .refused r := by
  cases hq : q.sniff with
  | failed => exact absurd hq hsniff
  | noAddress | address => simp only [startState, hq, hsnap, hp]

theorem startState_snapshot {q : InitRequest} {p : Snapshot} (hsniff : q.sniff ≠ .failed) (hsnap : q.snapshot = some p)
    (hp : snapshotRefusal p = none) (s : State) : startState q s = .next (startSnapshot p s) := by
  cases hq : q.sniff with
  | failed => exact absurd hq hsniff
  | noAddress | address => simp only [startState, hq, hsnap, hp]

/-! ## `init` (R475, R477) -/

theorem initMachine_of_error {q : InitRequest} {e : Fault} (he : resolveSize q = .error e) : initMachine q = .fault e := by
  simp only [initMachine, he]

theorem initMachine_missingRom {q : InitRequest} {e : Expansion} (he : resolveSize q = .ok e)
    (h : wholeBuffer 0x1000 q.charRom = none ∨ wholeBuffer 0x2000 q.basicRom = none ∨
      wholeBuffer 0x2000 q.kernelRom = none) : initMachine q = .fault .missingRom := by
  simp only [initMachine, he]
  split
  next hchars hbasic hkernel => simp only [hchars, hbasic, hkernel, reduceCtorEq, or_self] at h
  next => rfl

section
variable {q : InitRequest} {e : Expansion} {chars basic kernel : List Byte}

/-- With an expansion and the three buffers, `init` is the choice of the starting state. -/
theorem initMachine_of_roms (he : resolveSize q = .ok e) (hchars : wholeBuffer 0x1000 q.charRom = some chars)
    (hbasic : wholeBuffer 0x2000 q.basicRom = some basic) (hkernel : wholeBuffer 0x2000 q.kernelRom = some kernel) :
    initMachine q = startState q (coldStart q e chars basic kernel) := by
  simp only [initMachine, he, hchars, hbasic, hkernel, coldStart]

/-- The starting state of a request whose snapshot, if any, is not refused: `ready/paused` with the expansion of the cold
start, at the first cycle of the reset sequence or, from a snapshot, at a boundary (R479). -/
theorem startState_goes (hsniff : q.sniff ≠ .failed) (hsnap : ∀ p, q.snapshot = some p → snapshotRefusal p = none) :
    ∃ s, startState q (coldStart q e chars basic kernel) = .next s ∧ s.run = .ready ∧ s.cfg.expansion = e ∧
      (q.snapshot = none → s.seq.map InFlight.kind = some .reset ∧ cycleIndex s = 1) ∧
      (q.snapshot ≠ none → s.seq = none ∧ cycleIndex s = 0) := by
  cases hq : q.snapshot with
  | none => exact ⟨_, startState_cold hq _, by simp⟩
  | some p => exact ⟨_, startState_snapshot hsniff hq (hsnap p hq) _, by simp⟩

end

/-! ## The obligation -/

/-- Settles O39: each clause is the matching case of the expansion, of the buffers or of the starting state. -/
theorem initFailuresAndRefusals : Obligations.InitFailuresAndRefusals := by
  refine ⟨fun s h => ?uninitialized, fun q hsize => initMachine_of_error (resolveSize_unrecognised hsize),
    fun q hsize hmissing => ?missing, fun q chars basic kernel hsize hc hclen hb hblen hk hklen => ?whole⟩
  case uninitialized =>
    exact ⟨step_uninitialized h, stepCycle_uninitialized h, stepFrame_uninitialized h, sourceStep_uninitialized h,
      hostCall_uninitialized h _, hostCall_uninitialized h _, fun _ => hostCall_uninitialized h _⟩
  case missing =>
    obtain ⟨e, he⟩ := exists_resolveSize hsize
    exact initMachine_missingRom he (hmissing.imp wholeBuffer_eq_none (Or.imp wholeBuffer_eq_none wholeBuffer_eq_none))
  case whole =>
    have hinit {e : Expansion} (he : resolveSize q = .ok e) :
        initMachine q = startState q (coldStart q e chars basic kernel) :=
      initMachine_of_roms he (wholeBuffer_of_length hc hclen) (wholeBuffer_of_length hb hblen)
        (wholeBuffer_of_length hk hklen)
    refine ⟨fun hsniff => ⟨beq_iff_eq.mpr hsniff, ?failed⟩,
      fun hsniff => ⟨beq_eq_false_iff_ne.mpr hsniff, fun p r hsnap hp => ?refused, fun hsnap => ?goes⟩⟩
    case failed =>
      exact ⟨_, (hinit (resolveSize_failed hsize hsniff)).trans (startState_failed hsniff _), by simp⟩
    all_goals obtain ⟨e, he⟩ := exists_resolveSize hsize
    case refused => exact (hinit he).trans (startState_refused hsniff hsnap hp _)
    case goes =>
      obtain ⟨s, hs, hrun, hexp, hcold, hboundary⟩ :=
        startState_goes (e := e) (chars := chars) (basic := basic) (kernel := kernel) hsniff hsnap
      have hresolved {e' : Expansion} (he' : resolveSize q = .ok e') : s.cfg.expansion = e' :=
        hexp.trans (Except.ok.inj (he.symm.trans he'))
      exact ⟨s, (hinit he).trans hs, hrun, fun _ hfixed => hresolved (resolveSize_fixed hfixed hsniff),
        fun _ hauto haddr => hresolved (resolveSize_auto_address hauto haddr),
        fun _ hauto hnone => hresolved (resolveSize_auto_noAddress hauto hnone), hcold, hboundary⟩

end Sys2Proof.Machine
end

section
/-! The obligations about the encoding (O27, O28): the decoder reads an opcode's row and its operand bytes, and each row makes of
them the instruction whose encoding they are. -/

namespace Sys2Proof

open Sys2Proof.Machine

/-! ## The two bytes of a word (R11, R72) -/

theorem wordOf_hiByte_loByte (w : Word) : wordOf (hiByte w) (loByte w) = w := by
  have h : wordOf (hiByte w) (loByte w) = w.extractLsb' 0 (8 + 8) :=
    BitVec.extractLsb'_append_extractLsb'_eq_extractLsb' rfl
  rw [h, BitVec.extractLsb'_eq_self]

theorem loByte_wordOf (hi lo : Byte) : loByte (wordOf hi lo) = lo := BitVec.extractLsb'_append_eq_right

theorem hiByte_wordOf (hi lo : Byte) : hiByte (wordOf hi lo) = hi := BitVec.extractLsb'_append_eq_left

/-! ## What the decoder reads (R120, R121, R140) -/

/-- The instruction a row of the opcode map makes of operand bytes; a byte its mode does not have is ignored. -/
def OpcodeRow.instr (row : OpcodeRow) (args : List Byte) : Instr := row.make (args.getD 0 0) (args.getD 1 0)

/-- The decoder reads an opcode, as many operand bytes as its row's mode has, and nothing of the rest. -/
theorem decode_of_row {op : Byte} {row : OpcodeRow} {args : List Byte} (hrow : findRow op = some row)
    (hargs : args.length = row.mode.operands) (rest : List Byte) :
    decode (op :: args ++ rest) = .ok (row.instr args, rest) := by
  match args with
  | [] | [b1] | [b1, b2] => simp [decode, hrow, ← hargs, OpcodeRow.instr]
  | _ :: _ :: _ :: _ => cases hm : row.mode <;> simp [hm, Mode.operands] at hargs

/-- Bytes that decode are an opcode with a row, its operand bytes and the rest. -/
theorem row_of_decode {bytes rest : List Byte} {i : Instr} (h : decode bytes = .ok (i, rest)) :
    ∃ op args row, bytes = op :: args ++ rest ∧ findRow op = some row ∧ args.length = row.mode.operands ∧
      i = row.instr args := by
  unfold decode at h
  split at h
  case h_1 => cases h
  case h_2 op tail =>
    split at h
    case h_1 => cases h
    case h_2 row hrow =>
      split at h
      case h_4 => cases h
      case h_1 hn =>
        cases h
        exact ⟨op, [], row, rfl, hrow, hn.symm, rfl⟩
      case h_2 b1 _ hn =>
        cases h
        exact ⟨op, [b1], row, rfl, hrow, hn.symm, rfl⟩
      case h_3 b1 b2 _ hn =>
        cases h
        exact ⟨op, [b1, b2], row, rfl, hrow, hn.symm, rfl⟩

/-! ## What a row makes (R139) -/

/-- The opcode map, row by row: the bytes of the instruction a row makes are its opcode and the operand bytes of its mode. -/
theorem encode_make : ∀ row ∈ opcodeRows, ∀ b1 b2,
    encode (row.make b1 b2) = BitVec.ofNat 8 row.opcode :: [b1, b2].take row.mode.operands := by
  simp only [opcodeRows, List.forall_mem_append]
  refine ⟨⟨⟨⟨⟨⟨⟨⟨⟨⟨⟨⟨⟨⟨⟨?_, ?_⟩, ?_⟩, ?_⟩, ?_⟩, ?_⟩, ?_⟩, ?_⟩, ?_⟩, ?_⟩, ?_⟩, ?_⟩, ?_⟩, ?_⟩, ?_⟩, ?_⟩
  all_goals
    refine List.forall_iff_forall_mem.mp ?_
    repeat' apply And.intro
    all_goals
      intro b1 b2
      simp only [encode, loByte_wordOf, hiByte_wordOf]
      rfl

theorem encode_instr {op : Byte} {row : OpcodeRow} {args : List Byte} (hrow : findRow op = some row)
    (hargs : args.length = row.mode.operands) : encode (row.instr args) = op :: args := by
  have hop : row.opcode = op.toNat := by simpa using List.find?_some hrow
  have htake : [args.getD 0 0, args.getD 1 0].take row.mode.operands = args := by
    match args with
    | [] | [b1] | [b1, b2] => rw [← hargs]; rfl
    | _ :: _ :: _ :: _ => cases hm : row.mode <;> simp [hm, Mode.operands] at hargs
  rw [OpcodeRow.instr, encode_make row (List.mem_of_find?_eq_some hrow), htake, hop, BitVec.ofNat_toNat, BitVec.setWidth_eq]

/-- Every instruction is what the row of its opcode makes of its operand bytes: one case a constructor. -/
theorem exists_row (i : Instr) : ∃ op args row, encode i = op :: args ∧ findRow op = some row ∧
    args.length = row.mode.operands ∧ row.instr args = i := by
  cases i <;>
    exact ⟨_, _, _, rfl, rfl, rfl, by simp [OpcodeRow.instr, wordOf_hiByte_loByte]⟩

/-! ## The obligations -/

/-- R120: the decoder gives back an encoded instruction, whatever follows it. -/
theorem decode_encode (i : Instr) (rest : List Byte) : decode (encode i ++ rest) = .ok (i, rest) := by
  obtain ⟨op, args, row, hcode, hrow, hargs, hi⟩ := exists_row i
  rw [hcode, decode_of_row hrow hargs, hi]

/-- R140: bytes that decode are the instruction's encoding and the rest. -/
theorem eq_encode_of_decode {bytes rest : List Byte} {i : Instr} (h : decode bytes = .ok (i, rest)) :
    bytes = encode i ++ rest := by
  obtain ⟨op, args, row, hbytes, hrow, hargs, rfl⟩ := row_of_decode h
  rw [hbytes, encode_instr hrow hargs]

/-- Settles O27: both directions of the round trip. -/
theorem decodeInvertsEncode : Obligations.DecodeInvertsEncode :=
  ⟨decode_encode, fun _ _ _ => eq_encode_of_decode⟩

/-- Settles O28: the twelve words are encodings, and the decoder gives back what was encoded. -/
theorem wordsOfTheMapDecode : Obligations.WordsOfTheMapDecode :=
  ⟨decode_encode (.ldaImm 0x80#8) [], decode_encode (.staAbs 0x1E00#16) [], decode_encode .tsx [], decode_encode .pla [],
    decode_encode (.adcIzy 0xFE#8) [], decode_encode (.andAbx 0x1234#16) [], decode_encode (.cmpIzx 0x40#8) [],
    decode_encode (.incZpx 0x20#8) [], decode_encode .rorAcc [], decode_encode (.bmi 0x7F#8) [],
    decode_encode (.jmpInd 0x10FF#16) [], decode_encode .brk []⟩

end Sys2Proof
end

section
/-! The obligation about the order of a clock (O36): a bus access that goes on, written out, and a clock that goes on as the
video/audio chip's cycle, the access and the timer chips' cycles (R470). -/

namespace Sys2Proof.Machine

/-! ## A read that goes on (R80, R83) -/

/-- The byte a read shows, by what stands at the address (R80). -/
def shownByte (a : Word) (s : State) : Byte :=
  match region s.cfg a with
  | .vic => vicRead (registerIndex a) s.clock s.vic
  | .viaA => (viaRead (registerIndex a) s.inp.a s.viaA).1
  | .viaB => (viaRead (registerIndex a) s.inp.b s.viaB).1
  | .ram | .rom => cell s.mem a
  | .colour => s.latch.extractLsb' 4 4 ++ colourNibble s.mem a
  | .absent | .mirror => s.latch

/-- Timer chip A after a read, which has a side effect when the chip owns the address. -/
def viaAAfterRead (a : Word) (s : State) : Via :=
  if region s.cfg a = .viaA then (viaRead (registerIndex a) s.inp.a s.viaA).2 else s.viaA

/-- Timer chip B after a read, which has a side effect when the chip owns the address. -/
def viaBAfterRead (a : Word) (s : State) : Via :=
  if region s.cfg a = .viaB then (viaRead (registerIndex a) s.inp.b s.viaB).2 else s.viaB

section
variable {a : Word} {s t : State} {v : Byte}

/-- A read that goes on shows its byte, keeps the side effect of the chip that owns the address, and leaves the byte in the
latch. -/
theorem busRead_eq_next (h : busRead a s = .next (v, t)) :
    v = shownByte a s ∧ t = ((s.withViaA (viaAAfterRead a s)).withViaB (viaBAfterRead a s)).withLatch v := by
  unfold busRead readDone at h
  split at h <;> rename_i hr <;> cases h
  all_goals
    simp only [shownByte, viaAAfterRead, viaBAfterRead, hr, reduceCtorEq, if_true, if_false]
    exact ⟨trivial, rfl⟩

theorem shownByte_memory (h : isMemory s.cfg a = true) : shownByte a s = cell s.mem a := by
  unfold isMemory at h
  unfold shownByte
  split at h <;> simp_all

/-! ## A write that goes on (R81, R83) -/

/-- A write that goes on reaches the chip that owns the address, or memory, and leaves its byte in the latch. -/
theorem busWrite_eq_next (h : busWrite a v s = .next t) : ∃ g A B,
    t = ((((s.withVic g).withViaA A).withViaB B).withMem (storeByte s.cfg s.mem a v)).withLatch v ∧
    g = (if region s.cfg a = .vic then { s.vic with reg := vicRegWrite (registerIndex a) v s.vic.reg } else s.vic) ∧
    (if region s.cfg a = .viaA then viaWrite (registerIndex a) v s.viaA else .next s.viaA) = .next A ∧
    (if region s.cfg a = .viaB then viaWrite (registerIndex a) v s.viaB else .next s.viaB) = .next B := by
  unfold busWrite at h
  split at h <;> rename_i hr
  case h_1 =>
    obtain ⟨g, hg, ht⟩ := andThen_eq_next.mp h
    cases ht
    exact ⟨g, s.viaA, s.viaB, by simp only [storeByte, hr]; rfl, by rw [if_pos hr]; exact reg_of_vicWrite hg, by simp [hr],
      by simp [hr]⟩
  case h_2 =>
    obtain ⟨A, hA, ht⟩ := andThen_eq_next.mp h
    cases ht
    exact ⟨s.vic, A, s.viaB, by simp only [storeByte, hr]; rfl, by simp [hr], by rw [if_pos hr, hA], by simp [hr]⟩
  case h_3 =>
    obtain ⟨B, hB, ht⟩ := andThen_eq_next.mp h
    cases ht
    exact ⟨s.vic, s.viaA, B, by simp only [storeByte, hr]; rfl, by simp [hr], by simp [hr], by rw [if_pos hr, hB]⟩
  case h_4 => cases h
  all_goals
    cases h
    exact ⟨s.vic, s.viaA, s.viaB, rfl, by simp [hr], by simp [hr], by simp [hr]⟩

end

/-! ## The state a clock's access finds (R470, R520) -/

@[simp] theorem hijacks_keep (s : State) : hijacks .keep s = false := rfl

/-- What the act on the NMI latch leaves: every other field. -/
theorem actOnNmi_eq (act : NmiAct) (s : State) : ∃ pending, actOnNmi act s = s.withNmiPending pending := by
  cases act with
  | keep => exact ⟨s.nmiPending, rfl⟩
  | enter => exact ⟨false, rfl⟩
  | hijack =>
    simp only [actOnNmi]
    split
    · exact ⟨false, rfl⟩
    · exact ⟨s.nmiPending, rfl⟩

/-- The state the processor's access finds: the inputs sampled, the video/audio chip stepped to `c` with the outputs `out`, the
NMI line sampled and the cycle's act on the latch done. -/
def atAccess (act : NmiAct) (s : State) (c : Vic) (out : ClockOut) : State :=
  actOnNmi act (sampleNmi (((sampleInputs s).withVic c).emit out))

section
variable (act : NmiAct) (s : State) (c : Vic) (out : ClockOut)

theorem atAccess_eq : ∃ pending, atAccess act s c out =
    (sampleNmi (((sampleInputs s).withVic c).emit out)).withNmiPending pending := actOnNmi_eq act _

@[simp] theorem atAccess_cfg : (atAccess act s c out).cfg = s.cfg := by
  obtain ⟨_, h⟩ := atAccess_eq act s c out; simp [h]

@[simp] theorem atAccess_run : (atAccess act s c out).run = s.run := by
  obtain ⟨_, h⟩ := atAccess_eq act s c out; simp [h]

@[simp] theorem atAccess_regs : (atAccess act s c out).regs = s.regs := by
  obtain ⟨_, h⟩ := atAccess_eq act s c out; simp [h]

@[simp] theorem atAccess_seq : (atAccess act s c out).seq = s.seq := by
  obtain ⟨_, h⟩ := atAccess_eq act s c out; simp [h]

@[simp] theorem atAccess_mem : (atAccess act s c out).mem = s.mem := by
  obtain ⟨_, h⟩ := atAccess_eq act s c out; simp [h]

@[simp] theorem atAccess_latch : (atAccess act s c out).latch = s.latch := by
  obtain ⟨_, h⟩ := atAccess_eq act s c out; simp [h]

@[simp] theorem atAccess_viaA : (atAccess act s c out).viaA = s.viaA := by
  obtain ⟨_, h⟩ := atAccess_eq act s c out; simp [h]

@[simp] theorem atAccess_viaB : (atAccess act s c out).viaB = s.viaB := by
  obtain ⟨_, h⟩ := atAccess_eq act s c out; simp [h]

@[simp] theorem atAccess_vic : (atAccess act s c out).vic = c := by
  obtain ⟨_, h⟩ := atAccess_eq act s c out; simp [h]

@[simp] theorem atAccess_inp : (atAccess act s c out).inp = nextInputs s := by
  obtain ⟨_, h⟩ := atAccess_eq act s c out; simp [h]

@[simp] theorem atAccess_clock : (atAccess act s c out).clock = s.clock := by
  obtain ⟨_, h⟩ := atAccess_eq act s c out; simp [h]

@[simp] theorem atAccess_sink : (atAccess act s c out).sink = out :: s.sink := by
  obtain ⟨_, h⟩ := atAccess_eq act s c out; simp [h]

end

/-- A clock that goes on: the video/audio chip's cycle, the access, the timer chips' cycles, in this order (R470). -/
theorem clock_eq_next {b : BusOp} {act : NmiAct} {s t : State} {o : Obs} (h : clock b act s = .next (o, t)) :
    ∃ c out u, vicCycle s.cfg s.mem s.clock s.vic = .next (c, out) ∧
      busAccess b (atAccess act s c out) = .next (o.byte, u) ∧ t = timersPhase u := by
  obtain ⟨s1, hvic, hcpu⟩ := andThen_eq_next.mp h
  obtain ⟨x, hphase, ht⟩ := andThen_eq_next.mp hcpu
  obtain ⟨⟨v, u⟩, hbus, hx⟩ := andThen_eq_next.mp hphase
  obtain ⟨⟨c, out⟩, hcycle, hs1⟩ := andThen_eq_next.mp hvic
  cases hs1
  cases hx
  cases ht
  exact ⟨c, out, u, hcycle, hbus, rfl⟩

/-! ## The kinds of access (R80, R81, R84) -/

theorem busAccess_write {a : Word} {v w : Byte} {s t : State} (h : busAccess (.write a v) s = .next (w, t)) :
    busWrite a v s = .next t := by
  obtain ⟨u, hu, ht⟩ := andThen_eq_next.mp h
  cases ht
  exact hu

/-- A fetch from outside memory, or with `latch_on_fetch`, is a `MemRead` (R84). -/
theorem busAccess_memRead {a : Word} {b : BusOp} {s : State}
    (hb : b = .read a ∨ b = .fetch a ∧ (isMemory s.cfg a = false ∨ s.cfg.latchOnFetch = true)) :
    busAccess b s = busRead a s := by
  rcases hb with rfl | ⟨rfl, hf⟩
  · rfl
  · rw [busAccess, busFetch, if_neg]
    rcases hf with hf | hf <;> simp [hf]

/-- No access, and a fetch from memory without `latch_on_fetch`, leave the state (R84, R500). -/
theorem busAccess_silent {a : Word} {b : BusOp} {s t : State} {v : Byte}
    (hb : b = .none ∨ b = .fetch a ∧ isMemory s.cfg a = true ∧ s.cfg.latchOnFetch = false)
    (h : busAccess b s = .next (v, t)) : t = s ∧ (b = .fetch a → v = cell s.mem a) := by
  rcases hb with rfl | ⟨rfl, hmem, hlatch⟩
  · cases h
    exact ⟨rfl, nofun⟩
  · simp only [busAccess, busFetch, hmem, hlatch, Bool.not_false, Bool.and_self, if_true] at h
    cases h
    exact ⟨rfl, fun _ => rfl⟩

/-! ## The obligation -/

/-- Settles O36: the parts of a clock in their order, and in each clause the access written out. -/
theorem clockOrder : Obligations.ClockOrder := by
  refine ⟨fun s t a v act o h => ?write, fun s t a b act o h hb => ?memRead, fun s t a b act o h hb => ?silent⟩
  all_goals obtain ⟨c, out, u, hcycle, hbus, rfl⟩ := clock_eq_next h
  case write =>
    obtain ⟨g, A, B, rfl, hg, hA, hB⟩ := busWrite_eq_next (busAccess_write hbus)
    refine ⟨c, out, hcycle, by simp, by simpa using hg, by simp, by simp, ⟨A, by simpa using hA, by simp⟩,
      B, by simpa using hB, by simp⟩
  case memRead =>
    rw [busAccess_memRead (by simpa using hb)] at hbus
    obtain ⟨hbyte, rfl⟩ := busRead_eq_next hbus
    refine ⟨c, out, hcycle, by simp, by simp, by simp, by simp, fun hm => ?_, fun hr => ?_, fun hr => ?_, fun hr => ?_,
      fun hr => ?_, fun hr => ?_, by simp [viaAAfterRead], by simp [viaBAfterRead]⟩
    · rw [hbyte, shownByte_memory (by simpa using hm), atAccess_mem]
    all_goals simp [hbyte, shownByte, hr, colourNibble]
  case silent =>
    obtain ⟨rfl, hbyte⟩ := busAccess_silent (by simpa using hb) hbus
    exact ⟨c, out, hcycle, by simp, by simp, by simp, by simp, by simpa using hbyte, by simp, by simp⟩

end Sys2Proof.Machine
end

section
/-! The obligations about the instructions with an operand byte and about the accumulator forms (O1 to O8, O11): what each
mnemonic makes of its operand byte, and the script of an instruction by its shape. -/

namespace Sys2Proof.Machine

/-! ## What a mnemonic does with its operand (R150 to R156, R197 to R207, R230 to R234) -/

/-- The registers an instruction that reads an operand byte leaves. -/
def readEffect : ReadOp → Byte → Regs → Regs
  | .lda, m, r => loadA m r
  | .ldx, m, r => loadX m r
  | .ldy, m, r => loadY m r
  | .adc, m, r => adcRegs m r
  | .sbc, m, r => sbcRegs m r
  | .and, m, r => loadA (r.a &&& m) r
  | .ora, m, r => loadA (r.a ||| m) r
  | .eor, m, r => loadA (r.a ^^^ m) r
  | .cmp, m, r => compareRegs r.a m r
  | .cpx, m, r => compareRegs r.x m r
  | .cpy, m, r => compareRegs r.y m r
  | .bit, m, r => { r with p := bitFlags r.a m r.p }

/-- The register a store writes. -/
def storeSource : StoreOp → Regs → Byte
  | .sta, r => r.a
  | .stx, r => r.x
  | .sty, r => r.y

/-- What a shift, a rotate, an increment or a decrement makes of a byte. -/
def modifyEffect : ModifyOp → Byte → Flags → Modified
  | .asl => aslByte
  | .lsr => lsrByte
  | .rol => rolByte
  | .ror => rorByte
  | .inc => incByte
  | .dec => decByte

/-- The registers an implied instruction leaves. -/
def registerEffect : RegisterOp → Regs → Regs
  | .tax, r => loadX r.a r
  | .tay, r => loadY r.a r
  | .txa, r => loadA r.x r
  | .tya, r => loadA r.y r
  | .tsx, r => loadX r.s r
  | .txs, r => { r with s := r.x }
  | .inx, r => loadX (r.x + 1) r
  | .iny, r => loadY (r.y + 1) r
  | .dex, r => loadX (r.x - 1) r
  | .dey, r => loadY (r.y - 1) r
  | .clc, r => { r with p := { r.p with c := false } }
  | .sec, r => { r with p := { r.p with c := true } }
  | .cli, r => { r with p := { r.p with i := false } }
  | .sei, r => { r with p := { r.p with i := true } }
  | .cld, r => { r with p := { r.p with d := false } }
  | .sed, r => { r with p := { r.p with d := true } }
  | .clv, r => { r with p := { r.p with v := false } }
  | .nop, r => r

/-- The flag value on which a branch is taken. -/
def branchTaken : BranchOp → Flags → Bool
  | .bcc, p => !p.c
  | .bcs, p => p.c
  | .bne, p => !p.z
  | .beq, p => p.z
  | .bpl, p => !p.n
  | .bmi, p => p.n
  | .bvc, p => !p.v
  | .bvs, p => p.v

/-- The script of an instruction of a shape. -/
def shapeMicro : Shape → Regs → Micro
  | .read op o, r => readOperand o r fun m => readEffect op m r
  | .imm op v, r => .done (readEffect op v r)
  | .store op o, r => writeOperand o r (storeSource op r)
  | .modify op o, r => modifyOperand o r (modifyEffect op)
  | .acc op, r => implied r (modifyA (modifyEffect op) r)
  | .register op, r => implied r (registerEffect op r)
  | .branch op d, r => branchCycles (branchTaken op r.p) d r
  | .pha, r => microPha r
  | .php, r => microPhp r
  | .pla, r => microPla r
  | .plp, r => microPlp r
  | .jmpAbs a, r => microJmpAbs a r
  | .jmpInd a, r => microJmpInd a r
  | .jsr a, r => microJsr a r
  | .rts, r => microRts r
  | .brk, r => microBrk r
  | .rti, r => microRti r

/-- The script of an instruction is that of its shape: one case a constructor. -/
theorem microOf_eq_shapeMicro (i : Instr) (r : Regs) : microOf i r = shapeMicro i.shape r := by
  cases i <;> rfl

theorem exec_of_shape {i : Instr} {sh : Shape} (h : i.shape = sh) (s : State) :
    exec i s = runMicro (shapeMicro sh s.regs) s := by
  rw [exec_eq_runMicro, microOf_eq_shapeMicro, h]

/-! ## Completion of the operand shapes -/

/-- R14: a mnemonic that makes `f M` of the registers completes as `readOperand` does. -/
theorem readCompletes_of_effect {op : ReadOp} {f : Byte → Regs → Regs} (hf : ∀ m r, readEffect op m r = f m r) :
    ReadCompletes op f := by
  refine ⟨fun i v s hshape => ?imm, fun i o s hshape hready hdummy htarget => ?read⟩
  case imm => rw [exec_of_shape hshape, shapeMicro, runMicro_done, hf]
  case read =>
    obtain ⟨t, m, hafter, hrun, hbyte, hlatch, hquiet⟩ := readOperand_spec hready hdummy htarget
    have hq := quiet_withRegs hquiet (f m s.regs)
    have hexec : exec i s = .next (t.withRegs (f m s.regs)) := by rw [exec_of_shape hshape, shapeMicro, hrun, hf]
    exact ⟨_, m, hexec, hbyte, ⟨t, hafter, rfl⟩, State.withRegs_regs .., hlatch, fun b => by rw [hq.mem], hq.chips, hq.kept⟩

/-- R150: a store completes as `writeOperand` does. -/
theorem storeCompletes (op : StoreOp) : StoreCompletes op (storeSource op) := by
  intro i o s hshape hwf hready hdummy hallowed
  obtain ⟨t, hclocks, hrun, hregs, hlatch, hcell, hchips, hkept, -⟩ := writeOperand_spec hwf hready hdummy hallowed
  exact ⟨t, (exec_of_shape hshape s).trans hrun, hclocks, hregs, hlatch, hcell, hchips, hkept⟩

/-- R78: a mnemonic that makes the byte `res` and the flags `flags` completes as `modifyOperand` does. -/
theorem modifyCompletes_of_effect {op : ModifyOp} {res : Byte → Flags → Byte} {flags : Byte → Flags → Flags}
    (hf : ∀ m p, modifyEffect op m p = ⟨res m p, flags m p⟩) : ModifyCompletes op res flags := by
  intro i o s hshape hwf hready hdummy htarget hallowed
  obtain ⟨t, m, hclocks, hrun, hbyte, hregs, hlatch, hcell, hchips, hkept, -⟩ :=
    modifyOperand_spec (f := modifyEffect op) hwf hready hdummy htarget (by simpa only [hf] using hallowed)
  simp only [hf] at hclocks hregs hlatch hcell hchips
  exact ⟨t, m, (exec_of_shape hshape s).trans hrun, hbyte, hclocks, hregs, hlatch, hcell, hchips, hkept⟩

/-! ## The shifted and rotated bytes, as the statements write them out (R231 to R234) -/

theorem aslByte_eq (m : Byte) (p : Flags) :
    aslByte m p = ⟨m <<< 1, { p with c := m.getLsbD 7, n := (m <<< 1).getLsbD 7, z := m <<< 1 == 0#8 }⟩ := rfl

theorem shiftRight_getLsbD_seven : ∀ m : Byte, (m >>> 1).getLsbD 7 = false := by decide

/-- A shift right clears N, for it clears bit 7. -/
theorem lsrByte_eq (m : Byte) (p : Flags) :
    lsrByte m p = ⟨m >>> 1, { p with c := m.getLsbD 0, n := false, z := m >>> 1 == 0#8 }⟩ := by
  rw [← shiftRight_getLsbD_seven m]
  rfl

theorem rotateLeft_eq (m : Byte) (c : Bool) : m <<< 1 ||| bitByte c = m.extractLsb' 0 7 ++ BitVec.ofBool c := by
  revert m c; decide

theorem rotateLeft_getLsbD_seven (m : Byte) (c : Bool) :
    (m.extractLsb' 0 7 ++ BitVec.ofBool c : Byte).getLsbD 7 = m.getLsbD 6 := by
  revert m c; decide

/-- A rotate left: bit 6 comes to bit 7, the old carry to bit 0. -/
theorem rolByte_eq (m : Byte) (p : Flags) : rolByte m p =
    ⟨m.extractLsb' 0 7 ++ BitVec.ofBool p.c,
      { p with
        c := m.getLsbD 7
        n := m.getLsbD 6
        z := (m.extractLsb' 0 7 ++ BitVec.ofBool p.c : Byte) == 0#8 }⟩ := by
  rw [rolByte, rotateLeft_eq, ← rotateLeft_getLsbD_seven m p.c]
  rfl

theorem rotateRight_eq (m : Byte) (c : Bool) : m >>> 1 ||| bitByte c <<< 7 = BitVec.ofBool c ++ m.extractLsb' 1 7 := by
  revert m c; decide

theorem rotateRight_getLsbD_seven (m : Byte) (c : Bool) :
    (BitVec.ofBool c ++ m.extractLsb' 1 7 : Byte).getLsbD 7 = c := by
  revert m c; decide

/-- A rotate right: the old carry comes to bit 7 and so to N. -/
theorem rorByte_eq (m : Byte) (p : Flags) : rorByte m p =
    ⟨BitVec.ofBool p.c ++ m.extractLsb' 1 7,
      { p with
        c := m.getLsbD 0
        n := p.c
        z := (BitVec.ofBool p.c ++ m.extractLsb' 1 7 : Byte) == 0#8 }⟩ := by
  rw [rorByte, rotateRight_eq, shiftResult, setNZ, bitOf, rotateRight_getLsbD_seven m p.c]
  rfl

/-! ## The obligations -/

/-- Settles O1: each load writes its register and sets N and Z from it. -/
theorem loadsWriteTheirRegister : Obligations.LoadsWriteTheirRegister :=
  ⟨readCompletes_of_effect loadA_eq, readCompletes_of_effect loadX_eq, readCompletes_of_effect loadY_eq⟩

/-- Settles O2: both write the sum that D chooses, as `applySum` writes it. -/
theorem adcSbcWriteTheAccumulator : Obligations.AdcSbcWriteTheAccumulator :=
  ⟨readCompletes_of_effect fun _ _ => rfl, readCompletes_of_effect fun _ _ => rfl⟩

/-- Settles O3: each loads A with A combined with the operand byte. -/
theorem logicWritesTheAccumulator : Obligations.LogicWritesTheAccumulator :=
  ⟨readCompletes_of_effect fun m r => loadA_eq (r.a &&& m) r, readCompletes_of_effect fun m r => loadA_eq (r.a ||| m) r,
    readCompletes_of_effect fun m r => loadA_eq (r.a ^^^ m) r⟩

/-- Settles O4: each compares its register and writes the three flags of `compareFlags`. -/
theorem comparesWriteFlagsOnly : Obligations.ComparesWriteFlagsOnly :=
  ⟨readCompletes_of_effect fun _ _ => rfl, readCompletes_of_effect fun _ _ => rfl, readCompletes_of_effect fun _ _ => rfl⟩

/-- Settles O5: BIT writes the three flags of `bitFlags`. -/
theorem bitTestsTheOperand : Obligations.BitTestsTheOperand :=
  readCompletes_of_effect fun _ _ => rfl

/-- Settles O6: each store writes its own register. -/
theorem storesWriteTheirAddress : Obligations.StoresWriteTheirAddress :=
  ⟨storeCompletes .sta, storeCompletes .stx, storeCompletes .sty⟩

/-- Settles O7: the modified byte and its N and Z are those of `incByte` and `decByte`. -/
theorem incDecModifyMemory : Obligations.IncDecModifyMemory :=
  ⟨modifyCompletes_of_effect fun _ _ => rfl, modifyCompletes_of_effect fun _ _ => rfl⟩

/-- Settles O8: the modified byte and its flags are those of the four shifts. -/
theorem shiftsModifyMemory : Obligations.ShiftsModifyMemory :=
  ⟨modifyCompletes_of_effect aslByte_eq, modifyCompletes_of_effect lsrByte_eq, modifyCompletes_of_effect rolByte_eq,
    modifyCompletes_of_effect rorByte_eq⟩

/-- The registers after an accumulator form, from the byte it makes of A. -/
theorem modifyA_eq {f : Byte → Flags → Modified} {res : Byte → Flags → Byte} {flags : Byte → Flags → Flags}
    (hf : ∀ m p, f m p = ⟨res m p, flags m p⟩) (r : Regs) : modifyA f r = { r with a := res r.a r.p, p := flags r.a r.p } := by
  rw [modifyA, hf]

/-- Settles O11: each is an implied instruction that modifies A as its memory form modifies a byte. -/
theorem accumulatorShifts : Obligations.AccumulatorShifts := by
  refine ⟨?asl, ?lsr, ?rol, ?ror⟩
  case asl => exact impliedCompletes_of_micro rfl fun r => congrArg (implied r) (modifyA_eq aslByte_eq r)
  case lsr => exact impliedCompletes_of_micro rfl fun r => congrArg (implied r) (modifyA_eq lsrByte_eq r)
  case rol => exact impliedCompletes_of_micro rfl fun r => congrArg (implied r) (modifyA_eq rolByte_eq r)
  case ror => exact impliedCompletes_of_micro rfl fun r => congrArg (implied r) (modifyA_eq rorByte_eq r)

end Sys2Proof.Machine
end

section
/-! What a clock that goes on can do to the machine (R470), a step as the run of one script (R520), and how many cycles the script
of an instruction has (R522 to R532). -/

namespace Sys2Proof.Machine

/-! ## Everything a clock that goes on can do (R470) -/

theorem Via.legal_viaRead {c : Via} (h : c.legal) (r : BitVec 4) (pins : PortInputs) : (viaRead r pins c).2.legal :=
  (Via.legal_of_programmed (viaRead_programmed r pins c)).mpr h

theorem Via.legal_viaCycle {c : Via} (h : c.legal) (pins : PortInputs) : (viaCycle pins c).legal :=
  (Via.legal_of_programmed (viaCycle_programmed pins c)).mpr h

/-- What the processor's access leaves of the machine: the fields that count and configure it, one cell at most written, the video
chip but for its registers, and no refused mode in a timer chip that held none. -/
structure Accessed (s t : State) : Prop where
  cfg : t.cfg = s.cfg
  run : t.run = s.run
  seq : t.seq = s.seq
  clock : t.clock = s.clock
  mem : t.mem = s.mem ∨ ∃ a v, t.mem = storeByte s.cfg s.mem a v
  viaA : s.viaA.legal → t.viaA.legal
  viaB : s.viaB.legal → t.viaB.legal
  vic : ∃ g, t.vic = { s.vic with reg := g }

theorem Accessed.refl (s : State) : Accessed s s :=
  ⟨rfl, rfl, rfl, rfl, .inl rfl, id, id, _, rfl⟩

section
variable {a : Word} {s t : State} {v : Byte}

theorem accessed_busRead (h : busRead a s = .next (v, t)) : Accessed s t := by
  obtain ⟨-, rfl⟩ := busRead_eq_next h
  refine ⟨rfl, rfl, rfl, rfl, .inl rfl, fun hA => ?_, fun hB => ?_, _, rfl⟩
  · change (viaAAfterRead a s).legal
    unfold viaAAfterRead
    split
    · exact Via.legal_viaRead hA _ _
    · exact hA
  · change (viaBAfterRead a s).legal
    unfold viaBAfterRead
    split
    · exact Via.legal_viaRead hB _ _
    · exact hB

theorem accessed_busFetch (h : busFetch a s = .next (v, t)) : Accessed s t := by
  unfold busFetch at h
  split at h
  · cases h
    exact .refl s
  · exact accessed_busRead h

/-- A chip that takes a write, or none, holds no refused mode after it. -/
theorem Via.legal_of_write {p : Prop} [Decidable p] {r : BitVec 4} {c d : Via} (hc : c.legal)
    (h : (if p then viaWrite r v c else .next c) = .next d) : d.legal := by
  split at h
  · exact viaWrite_legal hc h
  · cases h
    exact hc

theorem accessed_busWrite (h : busWrite a v s = .next t) : Accessed s t := by
  obtain ⟨g, A, B, rfl, hg, hA, hB⟩ := busWrite_eq_next h
  refine ⟨rfl, rfl, rfl, rfl, .inr ⟨a, v, rfl⟩, fun h => Via.legal_of_write h hA, fun h => Via.legal_of_write h hB, ?_⟩
  change ∃ r, g = _
  split at hg
  · exact ⟨_, hg⟩
  · exact ⟨_, hg⟩

theorem accessed_busAccess {b : BusOp} (h : busAccess b s = .next (v, t)) : Accessed s t := by
  cases b with
  | none =>
    cases h
    exact .refl s
  | read a => exact accessed_busRead h
  | fetch a => exact accessed_busFetch h
  | write a w => exact accessed_busWrite (busAccess_write h)

end

/-- What a clock that goes on leaves of the machine. -/
structure Clocked (s t : State) : Prop where
  cfg : t.cfg = s.cfg
  run : t.run = s.run
  seq : t.seq = s.seq
  clock : t.clock = s.clock + 1
  mem : t.mem = s.mem ∨ ∃ a v, t.mem = storeByte s.cfg s.mem a v
  viaA : s.viaA.legal → t.viaA.legal
  viaB : s.viaB.legal → t.viaB.legal
  vic : ∃ c out g, vicCycle s.cfg s.mem s.clock s.vic = .next (c, out) ∧ t.vic = { c with reg := g }

theorem clocked_of_clock {b : BusOp} {act : NmiAct} {s t : State} {o : Obs} (h : clock b act s = .next (o, t)) :
    Clocked s t := by
  obtain ⟨c, out, u, hcycle, hbus, rfl⟩ := clock_eq_next h
  obtain ⟨hcfg, hrun, hseq, hclock, hmem, hA, hB, g, hvic⟩ := accessed_busAccess hbus
  simp only [atAccess_cfg, atAccess_run, atAccess_seq, atAccess_clock, atAccess_mem, atAccess_viaA, atAccess_viaB,
    atAccess_vic] at hcfg hrun hseq hclock hmem hA hB hvic
  exact ⟨by simp [hcfg], by simp [hrun], by simp [hseq], by simp [hclock], by simpa using hmem,
    fun h => by simpa using Via.legal_viaCycle (hA h) _, fun h => by simpa using Via.legal_viaCycle (hB h) _,
    c, out, g, hcycle, by simpa using hvic⟩

/-! ## A step is the run of one script (R520) -/

/-- A script sets the registers itself in its first cycle, or at its end. -/
theorem runMicro_withRegs (m : Micro) (s : State) (r : Regs) : runMicro m (s.withRegs r) = runMicro m s := by
  cases m <;> rfl

theorem runMicro_fetchAt_eq (s : State) (next : Byte → Regs → Micro) :
    runMicro (fetchAt s.regs fun v => next v (advance s.regs)) s =
      andThen (fetchByte s) fun f => runMicro (next f.1 f.2.regs) f.2 := by
  rw [fetchAt, runMicro_cycle, State.withRegs_self, fetchByte, andThen_assoc]
  simp only [andThen_next, State.withRegs_regs, runMicro_withRegs]

theorem runMicro_decodedMicro (op b1 b2 : Byte) (s : State) :
    runMicro (decodedMicro op b1 b2 s.regs) s = andThen (decodedInstr op b1 b2 s) fun f => exec f.1 f.2 := by
  unfold decodedMicro decodedInstr
  cases decodeBytes op b1 b2 with
  | none => rfl
  | some i => exact (exec_eq_runMicro i s).symm

/-- `JSR`'s script makes no use of the high operand byte, which its sixth cycle fetches (R528). -/
theorem decodedMicro_jsr (b1 b2 : Byte) (r : Regs) : decodedMicro jsrOpcode b1 b2 r = microJsr (zext16 b1) r := by
  have h : decodedMicro jsrOpcode b1 b2 r = microJsr (wordOf b2 b1) r := rfl
  have hlow : loByte (zext16 b1) = b1 := BitVec.eq_of_toNat_eq (by
    rw [loByte, BitVec.extractLsb'_toNat, zext16_toNat, Nat.shiftRight_zero, Nat.mod_eq_of_lt b1.isLt])
  rw [h, microJsr, microJsr, loByte_wordOf, hlow]

/-- Fetching an instruction and running its meaning is running the script that begins with the opcode fetch. -/
theorem runMicro_instrMicro (s : State) :
    runMicro (instrMicro s.regs) s = andThen (fetchInstr s) fun f => exec f.1 f.2 := by
  rw [instrMicro, runMicro_fetchAt_eq, fetchInstr, andThen_assoc]
  congr 1
  funext f0
  cases hcount : operandCount f0.1 with
  | none => simp only [operandMicro, hcount, runMicro_refuse, andThen_refused]
  | some n =>
    match n with
    | 0 => simp only [operandMicro, hcount, runMicro_decodedMicro]
    | 1 =>
      simp only [operandMicro, hcount, andThen_assoc]
      rw [runMicro_fetchAt_eq f0.2 fun b1 r => decodedMicro f0.1 b1 0 r]
      simp only [runMicro_decodedMicro]
    | n + 2 =>
      simp only [operandMicro, hcount, andThen_assoc]
      rw [runMicro_fetchAt_eq f0.2 fun b1 r => if f0.1 == jsrOpcode then decodedMicro f0.1 b1 0 r
        else fetchAt r fun b2 => decodedMicro f0.1 b1 b2 (advance r)]
      congr 1
      funext f1
      split
      case isTrue hop =>
        rw [beq_iff_eq.mp hop, decodedMicro_jsr _ 0, ← decodedMicro_jsr, runMicro_decodedMicro]
      case isFalse =>
        rw [runMicro_fetchAt_eq f1.2 fun b2 r => decodedMicro f0.1 f1.1 b2 r, andThen_assoc]
        simp only [runMicro_decodedMicro]

/-- A step of an initialised machine runs the rest of the sequence in progress, or the one that begins here, to its end. -/
theorem step_eq_runMicro {s : State} (hrun : s.run ≠ .uninitialized) :
    step s = runMicro (inFlightMicro (currentSequence s)) (s.withSeq none) := by
  unfold step
  split
  case h_1 h => exact absurd h hrun
  case h_2 =>
    cases hseq : s.seq with
    | some f => simp only [currentSequence, hseq, Option.getD_some]
    | none =>
      have hself : s.withSeq none = s := by rw [← hseq]; rfl
      have hcur : inFlightMicro (currentSequence s) = seqMicro (boundaryKind s) s.regs := by
        rw [currentSequence, hseq]
        exact resume_nil _
      rw [hcur, hself]
      cases hkind : boundaryKind s with
      | instr => exact (runMicro_instrMicro s).symm
      | irq | nmi | reset => rfl

theorem run_of_step {s t : State} (h : step s = .next t) : s.run ≠ .uninitialized := by
  intro hrun
  rw [step_uninitialized hrun] at h
  cases h

/-! ## What every clock keeps, every step keeps -/

section
variable {P : State → Prop} {s t : State} (hregs : ∀ s r, P s → P (s.withRegs r))
  (hclock : ∀ {b act s o t}, P s → clock b act s = .next (o, t) → P t)

include hregs hclock in
theorem runMicro_keeps {m : Micro} (hs : P s) (h : runMicro m s = .next t) : P t := by
  induction m generalizing s with
  | done r =>
    cases h
    exact hregs s r hs
  | refuse e => cases h
  | cycle r b act next ih =>
    obtain ⟨o, ho, hrest⟩ := andThen_eq_next.mp h
    exact ih o.1 (hclock (hregs s r hs) ho) hrest

include hregs hclock in
theorem step_keeps (hseq : ∀ s, P s → P (s.withSeq none)) (hs : P s) (h : step s = .next t) : P t := by
  rw [step_eq_runMicro (run_of_step h)] at h
  exact runMicro_keeps hregs hclock (hseq s hs) h

end

/-! ## How long a script lasts (R532) -/

/-- A script that ends does so after at least `lo` and at most `hi` cycles. -/
inductive Lasts : Nat → Nat → Micro → Prop
  | done {hi r} : Lasts 0 hi (.done r)
  | refuse {lo hi e} : Lasts lo hi (.refuse e)
  | cycle {lo hi r b act next} (h : ∀ o, Lasts (lo - 1) hi (next o)) : Lasts lo (hi + 1) (.cycle r b act next)

theorem Lasts.mono {lo lo' hi hi' : Nat} {m : Micro} (h : Lasts lo hi m) (hlo : lo' ≤ lo) (hhi : hi ≤ hi') :
    Lasts lo' hi' m := by
  induction h generalizing lo' hi' with
  | done =>
    obtain rfl := Nat.le_zero.mp hlo
    exact .done
  | refuse => exact .refuse
  | cycle _ ih =>
    obtain ⟨k, rfl⟩ : ∃ k, hi' = k + 1 := ⟨hi' - 1, by omega⟩
    exact .cycle fun o => ih o (by omega) (by omega)

theorem lasts_ite {p : Prop} [Decidable p] {lo hi : Nat} {m m' : Micro} (h : Lasts lo hi m) (h' : Lasts lo hi m') :
    Lasts lo hi (if p then m else m') := by
  split
  · exact h
  · exact h'

/-- The most cycles an operand form takes between its operand bytes and its access (R523, R525, R526). -/
def Operand.maxCycles : Operand → Nat
  | .zp _ | .abs _ => 0
  | .zpx _ | .zpy _ | .abx _ | .aby _ => 1
  | .izx _ | .izy _ => 3

theorem lasts_indexedCycles {base : Word} {i : Byte} {always : Bool} {r : Regs} {next : Word → Micro} {n : Nat}
    (h : ∀ ea, Lasts 0 n (next ea)) : Lasts 0 (n + 1) (indexedCycles base i always r next) :=
  lasts_ite (.cycle fun _ => h _) ((h _).mono (Nat.le_refl 0) (Nat.le_succ n))

theorem lasts_addressCycles {o : Operand} {always : Bool} {r : Regs} {next : Word → Micro} {n : Nat}
    (h : ∀ ea, Lasts 0 n (next ea)) : Lasts 0 (n + o.maxCycles) (addressCycles o always r next) := by
  cases o with
  | zp z | abs a => exact h _
  | zpx z | zpy z => exact .cycle fun _ => h _
  | abx a | aby a => exact lasts_indexedCycles h
  | izx z => exact .cycle fun _ => .cycle fun _ => .cycle fun _ => h _
  | izy z => exact .cycle fun _ => .cycle fun _ => lasts_indexedCycles h

theorem lasts_readOperand (o : Operand) (r : Regs) (f : Byte → Regs) : Lasts 0 (1 + o.maxCycles) (readOperand o r f) := by
  refine lasts_addressCycles fun ea => ?_
  exact .cycle fun _ => .done

theorem lasts_writeOperand (o : Operand) (r : Regs) (v : Byte) : Lasts 0 (1 + o.maxCycles) (writeOperand o r v) := by
  refine lasts_addressCycles fun ea => ?_
  exact .cycle fun _ => .done

theorem lasts_modifyOperand (o : Operand) (r : Regs) (f : Byte → Flags → Modified) :
    Lasts 0 (3 + o.maxCycles) (modifyOperand o r f) := by
  refine lasts_addressCycles fun ea => ?_
  exact .cycle fun _ => .cycle fun _ => .cycle fun _ => .done

/-- A read-modify-write has no indirect form (R139). -/
theorem maxCycles_of_modify {i : Instr} {op : ModifyOp} {o : Operand} (h : i.shape = .modify op o) : o.maxCycles ≤ 1 := by
  cases i <;> cases h
  all_goals simp [Operand.maxCycles]

/-- The operand bytes of an operand form (R123). -/
def Operand.bytes : Operand → Nat
  | .zp _ | .zpx _ | .zpy _ | .izx _ | .izy _ => 1
  | .abs _ | .abx _ | .aby _ => 2

theorem maxCycles_add_bytes_le (o : Operand) : o.maxCycles + o.bytes ≤ 4 := by
  cases o <;> simp [Operand.maxCycles, Operand.bytes]

theorem bytes_pos (o : Operand) : 0 < o.bytes := by
  cases o <;> simp [Operand.bytes]

theorem bytes_le (o : Operand) : o.bytes ≤ 2 := by
  cases o <;> simp [Operand.bytes]

/-- The operand bytes of a shape (R123). -/
def operandBytes : Shape → Nat
  | .read _ o | .store _ o | .modify _ o => o.bytes
  | .imm _ _ | .branch _ _ => 1
  | .jmpAbs _ | .jmpInd _ | .jsr _ => 2
  | .acc _ | .register _ | .pha | .php | .pla | .plp | .rts | .brk | .rti => 0

/-- The length of an instruction is its shape's: one case a constructor. -/
theorem length_encode (i : Instr) : (encode i).length = operandBytes i.shape + 1 := by
  cases i <;> rfl

/-- The fewest cycles an instruction of a shape takes after the fetch of its bytes: one of a single byte has a dummy read of the
next one (R522). -/
def minCycles (sh : Shape) : Nat := if operandBytes sh = 0 then 1 else 0

theorem minCycles_operand {sh : Shape} (h : 0 < operandBytes sh) : minCycles sh ≤ 0 := by
  rw [minCycles, if_neg h.ne']

/-- The most cycles an instruction of a shape takes after the fetch of its bytes (R522 to R531). -/
def maxCycles : Shape → Nat
  | .read _ o | .store _ o => 1 + o.maxCycles
  | .modify _ o => 3 + o.maxCycles
  | .imm _ _ | .jmpAbs _ => 0
  | .acc _ | .register _ => 1
  | .branch _ _ | .jmpInd _ | .pha | .php => 2
  | .pla | .plp => 3
  | .jsr _ => 4
  | .rts | .rti => 5
  | .brk => 6

theorem lasts_shapeMicro (sh : Shape) (r : Regs) : Lasts (minCycles sh) (maxCycles sh) (shapeMicro sh r) := by
  cases sh with
  | read op o => exact (lasts_readOperand o r _).mono (minCycles_operand (bytes_pos o)) (Nat.le_refl _)
  | store op o => exact (lasts_writeOperand o r _).mono (minCycles_operand (bytes_pos o)) (Nat.le_refl _)
  | modify op o => exact (lasts_modifyOperand o r _).mono (minCycles_operand (bytes_pos o)) (Nat.le_refl _)
  | imm op v | jmpAbs a => exact .done
  | acc op | register op => exact .cycle fun _ => .done
  | branch op d => exact lasts_ite (.cycle fun _ => lasts_ite (.cycle fun _ => .done) .done) .done
  | jmpInd a | pha | php => exact .cycle fun _ => .cycle fun _ => .done
  | pla | plp => exact .cycle fun _ => .cycle fun _ => .cycle fun _ => .done
  | jsr a => exact .cycle fun _ => .cycle fun _ => .cycle fun _ => .cycle fun _ => .done
  | rts | rti => exact .cycle fun _ => .cycle fun _ => .cycle fun _ => .cycle fun _ => .cycle fun _ => .done
  | brk =>
    exact .cycle fun _ => .cycle fun _ => .cycle fun _ => .cycle fun _ => .cycle fun _ => .cycle fun _ => .done

/-- R532: an instruction takes at most seven cycles with the fetch of its bytes. -/
theorem fetchClocks_add_maxCycles_le (i : Instr) : fetchClocks i + maxCycles i.shape ≤ 7 := by
  rw [fetchClocks, length_encode]
  cases hshape : i.shape with
  | read op o | store op o =>
    have hbytes := maxCycles_add_bytes_le o
    simp only [operandBytes, maxCycles]
    omega
  | modify op o =>
    have hmax := maxCycles_of_modify hshape
    have hbytes := bytes_le o
    simp only [operandBytes, maxCycles]
    omega
  | imm op v | branch op d | acc op | register op | pha | php | pla | plp | jmpAbs a | jmpInd a | jsr a | rts | brk | rti =>
    simp [operandBytes, maxCycles]

end Sys2Proof.Machine
end

section
/-! The obligations about a whole step (O31, O33, O34, O35): a script's run as calls of `step_cycle()` (R473, R521, R532),
and what every clock, and so every step, keeps. -/

namespace Sys2Proof.Machine

/-! ## How long a sequence lasts (R532) -/

/-- The bytes an opcode and two more decode to are the opcode and its operand bytes. -/
theorem encode_of_decodeBytes {op b1 b2 : Byte} {i : Instr} (h : decodeBytes op b1 b2 = some i) :
    ∃ args, encode i = op :: args ∧ operandCount op = some args.length := by
  unfold decodeBytes at h
  split at h
  case h_2 => cases h
  case h_1 j rest hdecode =>
    cases h
    obtain ⟨op', args, row, hbytes, hrow, hargs, rfl⟩ := row_of_decode hdecode
    obtain ⟨rfl, -⟩ := List.cons.inj hbytes
    exact ⟨args, encode_instr hrow hargs, by rw [operandCount, hrow, Option.map_some, hargs]⟩

/-- Only `JSR` leaves a byte of its encoding to be fetched later (R528): one case a constructor. -/
theorem fetchClocks_of_encode {i : Instr} {op : Byte} {args : List Byte} (h : encode i = op :: args) :
    fetchClocks i = if op = jsrOpcode then 2 else args.length + 1 := by
  cases i <;>
    · obtain ⟨rfl, rfl⟩ := List.cons.inj h
      rfl

theorem lasts_decodedMicro {op : Byte} {n : Nat} (hcount : operandCount op = some n) (b1 b2 : Byte) (r : Regs) :
    Lasts (if n = 0 then 1 else 0) (7 - if op = jsrOpcode then 2 else n + 1) (decodedMicro op b1 b2 r) := by
  unfold decodedMicro
  cases hi : decodeBytes op b1 b2 with
  | none => exact .refuse
  | some i =>
    obtain ⟨args, hcode, hargs⟩ := encode_of_decodeBytes hi
    obtain rfl : n = args.length := Option.some.inj (hcount.symm.trans hargs)
    have hmax := fetchClocks_add_maxCycles_le i
    have hbytes : args.length = operandBytes i.shape := by
      have hlength := length_encode i
      rw [hcode] at hlength
      exact Nat.succ.inj hlength
    rw [fetchClocks_of_encode hcode, hbytes] at hmax
    have hscript : Lasts (minCycles i.shape) (maxCycles i.shape) (microOf i r) :=
      microOf_eq_shapeMicro i r ▸ lasts_shapeMicro i.shape r
    rw [hbytes]
    exact hscript.mono (Nat.le_refl _) (by omega)

theorem lasts_operandMicro (op : Byte) (r : Regs) : Lasts 1 6 (operandMicro op r) := by
  unfold operandMicro
  split
  case h_1 => exact .refuse
  case h_2 hcount => exact (lasts_decodedMicro hcount _ _ _).mono (by simp) (by split <;> omega)
  case h_3 hcount => exact .cycle fun _ => (lasts_decodedMicro hcount _ _ _).mono (by simp) (by split <;> omega)
  case h_4 n h0 h1 hcount =>
    have hn : 2 ≤ n := by
      by_contra hlt
      interval_cases n
      · exact h0 rfl
      · exact h1 rfl
    refine .cycle fun _ => ?_
    split
    case isTrue hop =>
      exact (lasts_decodedMicro hcount _ _ _).mono (Nat.zero_le _) (by rw [if_pos (beq_iff_eq.mp hop)])
    case isFalse hop =>
      have hne : op ≠ jsrOpcode := fun h => hop (beq_iff_eq.mpr h)
      exact .cycle fun _ => (lasts_decodedMicro hcount _ _ _).mono (Nat.zero_le _) (by rw [if_neg hne]; omega)

theorem lasts_seqMicro (k : Seq) (r : Regs) : Lasts 2 7 (seqMicro k r) := by
  cases k with
  | instr => exact .cycle fun o => lasts_operandMicro o.byte (advance r)
  | irq | nmi | reset =>
    exact .cycle fun _ => .cycle fun _ => .cycle fun _ => .cycle fun _ => .cycle fun _ => .cycle fun _ => .cycle fun _ =>
      .done

/-- What is left of a script lasts no longer than the script. -/
theorem Lasts.resume {lo hi : Nat} {m : Micro} (h : Lasts lo hi m) (seen : List Obs) : Lasts 0 hi (resume m seen) := by
  induction seen generalizing lo hi m with
  | nil =>
    rw [resume_nil]
    exact h.mono (Nat.zero_le lo) (Nat.le_refl hi)
  | cons o seen ih =>
    cases h with
    | done => exact .done
    | refuse => exact .refuse
    | cycle h => exact (ih (h o)).mono (Nat.le_refl 0) (Nat.le_succ _)

theorem lasts_inFlightMicro (f : InFlight) : Lasts 0 7 (inFlightMicro f) := (lasts_seqMicro f.kind f.start).resume f.seen

theorem lasts_currentSequence {s : State} (h : s.seq = none) : Lasts 2 7 (inFlightMicro (currentSequence s)) := by
  have hbegin : inFlightMicro (currentSequence s) = seqMicro (boundaryKind s) s.regs := by
    rw [currentSequence, h]
    exact resume_nil _
  exact hbegin ▸ lasts_seqMicro (boundaryKind s) s.regs

/-! ## Clocks do not look at the sequence in progress -/

theorem busRead_withSeq (a : Word) (s : State) (q : Option InFlight) :
    busRead a (s.withSeq q) = andThen (busRead a s) fun o => .next (o.1, o.2.withSeq q) := by
  unfold busRead readDone
  simp only [State.withSeq_cfg]
  split <;> rfl

theorem busFetch_withSeq (a : Word) (s : State) (q : Option InFlight) :
    busFetch a (s.withSeq q) = andThen (busFetch a s) fun o => .next (o.1, o.2.withSeq q) := by
  by_cases h : (isMemory s.cfg a && !s.cfg.latchOnFetch) = true
  · simp only [busFetch, State.withSeq_cfg, h, if_true]
    rfl
  · simp only [busFetch, State.withSeq_cfg, h, Bool.false_eq_true, if_false]
    exact busRead_withSeq a s q

theorem busWrite_withSeq (a : Word) (v : Byte) (s : State) (q : Option InFlight) :
    busWrite a v (s.withSeq q) = andThen (busWrite a v s) fun t => .next (t.withSeq q) := by
  unfold busWrite
  simp only [State.withSeq_cfg]
  split
  case h_1 | h_2 | h_3 =>
    rw [andThen_assoc]
    rfl
  all_goals rfl

theorem busAccess_withSeq (b : BusOp) (s : State) (q : Option InFlight) :
    busAccess b (s.withSeq q) = andThen (busAccess b s) fun o => .next (o.1, o.2.withSeq q) := by
  cases b with
  | none => rfl
  | read a => exact busRead_withSeq a s q
  | fetch a => exact busFetch_withSeq a s q
  | write a v =>
    simp only [busAccess, busWrite_withSeq, andThen_assoc]
    rfl

theorem actOnNmi_withSeq (act : NmiAct) (s : State) (q : Option InFlight) :
    actOnNmi act (s.withSeq q) = (actOnNmi act s).withSeq q := by
  cases act with
  | keep | enter => rfl
  | hijack =>
    have h : hijacks .hijack (s.withSeq q) = hijacks .hijack s := rfl
    simp only [actOnNmi, h]
    split <;> rfl

theorem cpuPhase_withSeq (b : BusOp) (act : NmiAct) (s : State) (q : Option InFlight) :
    cpuPhase b act (s.withSeq q) = andThen (cpuPhase b act s) fun o => .next (o.1, o.2.withSeq q) := by
  have hsample : sampleNmi (s.withSeq q) = (sampleNmi s).withSeq q := rfl
  have hhijacks : hijacks act ((sampleNmi s).withSeq q) = hijacks act (sampleNmi s) := by cases act <;> rfl
  simp only [cpuPhase, hsample, hhijacks, actOnNmi_withSeq, busAccess_withSeq, andThen_assoc]
  rfl

theorem clock_withSeq (b : BusOp) (act : NmiAct) (s : State) (q : Option InFlight) :
    clock b act (s.withSeq q) = andThen (clock b act s) fun o => .next (o.1, o.2.withSeq q) := by
  have hvic : vicPhase (sampleInputs (s.withSeq q)) =
      andThen (vicPhase (sampleInputs s)) fun u => .next (u.withSeq q) := by
    simp only [vicPhase, andThen_assoc]
    rfl
  simp only [clock, hvic, andThen_assoc, andThen_next, cpuPhase_withSeq]
  rfl

/-! ## A script's run as calls of `step_cycle()` (R473, R521) -/

/-- `n` calls of `step_cycle()` end the sequence at `t`, and the machine is inside it between them. -/
structure EndsAfter (n : Nat) (s t : State) : Prop where
  runs : runCycles n s = .next t
  inside : ∀ k, 0 < k → k < n → ∃ u, runCycles k s = .next u ∧ u.seq ≠ none
  seq : t.seq = none
  run : t.run = s.run
  clock : t.clock = s.clock + n

theorem EndsAfter.one {s t : State} (h : stepCycle s = .next t) (hseq : t.seq = none) (hrun : t.run = s.run)
    (hclock : t.clock = s.clock + 1) : EndsAfter 1 s t :=
  ⟨(runCycles_one s).trans h, fun k _ _ => by omega, hseq, hrun, hclock⟩

/-- A call that leaves the machine inside the sequence, and the calls that end it. -/
theorem EndsAfter.cons {n : Nat} {s u t : State} (hcycle : stepCycle s = .next u) (hseq : u.seq ≠ none)
    (hrun : u.run = s.run) (hclock : u.clock = s.clock + 1) (h : EndsAfter n u t) : EndsAfter (n + 1) s t := by
  have hfirst : ∀ k, runCycles (k + 1) s = runCycles k u := fun k => by rw [runCycles, hcycle, andThen_next]
  refine ⟨(hfirst n).trans h.runs, fun k hpos hk => ?_, h.seq, h.run.trans hrun, by rw [h.clock, hclock]; omega⟩
  obtain ⟨j, rfl⟩ : ∃ j, k = j + 1 := ⟨k - 1, by omega⟩
  rw [hfirst]
  cases j with
  | zero => exact ⟨u, rfl, hseq⟩
  | succ j => exact h.inside (j + 1) (Nat.succ_pos j) (by omega)

theorem stepCycle_of_cycle {s : State} {r : Regs} {b : BusOp} {act : NmiAct} {next : Obs → Micro}
    (hrun : s.run ≠ .uninitialized) (hcur : inFlightMicro (currentSequence s) = .cycle r b act next) :
    stepCycle s = andThen (clock b act (s.withRegs r)) fun o => afterCycle (currentSequence s) o.1 (next o.1) o.2 := by
  unfold stepCycle
  split
  case h_1 h => exact absurd h hrun
  case h_2 => simp only [hcur]

/-- The rest of the sequence after a cycle that showed `o`. -/
theorem inFlightMicro_seen {f : InFlight} {r : Regs} {b : BusOp} {act : NmiAct} {next : Obs → Micro}
    (hf : inFlightMicro f = .cycle r b act next) (o : Obs) : inFlightMicro { f with seen := f.seen ++ [o] } = next o := by
  calc resume (seqMicro f.kind f.start) (f.seen ++ [o]) = resume (inFlightMicro f) [o] := resume_append _ _ o
    _ = next o := by rw [hf]; exact resume_nil (next o)

/-- The run of a script that has a cycle left is the calls of `step_cycle()` that end its sequence. -/
theorem endsAfter_of_runMicro {m : Micro} {lo hi : Nat} {s t : State} (hlasts : Lasts lo hi m) (hcycle : HasCycle m)
    (hrun : s.run ≠ .uninitialized) (hcur : inFlightMicro (currentSequence s) = m)
    (h : runMicro m (s.withSeq none) = .next t) : ∃ n, 1 ≤ n ∧ lo ≤ n ∧ n ≤ hi ∧ EndsAfter n s t := by
  induction hlasts generalizing s with
  | done | refuse => obtain ⟨_, _, _, _, hm⟩ := hcycle; cases hm
  | @cycle lo hi r b act next hnext ih =>
    have hstep := stepCycle_of_cycle hrun hcur
    have hswap : (s.withSeq none).withRegs r = (s.withRegs r).withSeq none := rfl
    rw [runMicro_cycle, hswap, clock_withSeq, andThen_assoc] at h
    obtain ⟨⟨o, u⟩, hclock, hrest⟩ := andThen_eq_next.mp h
    rw [andThen_next] at hrest
    have hclocked := clocked_of_clock hclock
    rw [hclock, andThen_next] at hstep
    cases hm : next o with
    | refuse e =>
      simp only [hm, runMicro_refuse] at hrest
      cases hrest
    | done r' =>
      simp only [hm, runMicro_done] at hrest
      cases hrest
      refine ⟨1, Nat.le_refl 1, ?_, Nat.succ_le_succ (Nat.zero_le hi), .one ?_ rfl hclocked.run hclocked.clock⟩
      · have hlast := hnext o
        rw [hm] at hlast
        generalize hlo : lo - 1 = k at hlast
        cases hlast
        omega
      · rw [hstep]
        simp only [afterCycle, hm]
        rfl
    | cycle r' b' act' next' =>
      simp only [hm] at hrest
      have hu : stepCycle s =
          .next ((u.withRegs r').withSeq (some { currentSequence s with seen := (currentSequence s).seen ++ [o] })) := by
        rw [hstep]
        simp only [afterCycle, hm]
      obtain ⟨n, hpos, hlo, hhi, hends⟩ := ih o
        (s := (u.withRegs r').withSeq (some { currentSequence s with seen := (currentSequence s).seen ++ [o] }))
        (hm ▸ ⟨_, _, _, _, rfl⟩)
        (by simpa [hclocked.run] using hrun) (inFlightMicro_seen hcur o) (by
          rw [hm]
          exact (runMicro_withRegs _ (u.withSeq none) r').trans hrest)
      exact ⟨n + 1, by omega, by omega, by omega,
        .cons hu (Option.some_ne_none _) (by simpa using hclocked.run) (by simpa using hclocked.clock) hends⟩

/-! ## The obligations -/

/-- A step from a boundary ends after 2 to 7 calls of `step_cycle()`, and one with a sequence in progress after at most 7, unless
that sequence has no cycle left. -/
theorem endsAfter_of_step {s t : State} (h : step s = .next t) :
    (∃ n, 1 ≤ n ∧ n ≤ 7 ∧ (s.seq = none → 2 ≤ n) ∧ EndsAfter n s t) ∨
      s.seq ≠ none ∧ stepCycle s = .next t ∧ t.seq = none ∧ t.run = s.run := by
  have hrun := run_of_step h
  have hrest := (step_eq_runMicro hrun).symm.trans h
  cases hm : inFlightMicro (currentSequence s) with
  | refuse e =>
    rw [hm] at hrest
    cases hrest
  | done r =>
    rw [hm] at hrest
    cases hrest
    refine .inr ⟨fun hseq => ?_, ?_, rfl, rfl⟩
    · have hlasts := lasts_currentSequence hseq
      rw [hm] at hlasts
      cases hlasts
    · unfold stepCycle
      split
      case h_1 h => exact absurd h hrun
      case h_2 => simp only [hm]
  | cycle r b act next =>
    have hcycle : HasCycle (inFlightMicro (currentSequence s)) := ⟨r, b, act, next, hm⟩
    left
    cases hseq : s.seq with
    | none =>
      obtain ⟨n, hpos, hlo, hhi, hends⟩ := endsAfter_of_runMicro (lasts_currentSequence hseq) hcycle hrun rfl hrest
      exact ⟨n, hpos, hhi, fun _ => hlo, hends⟩
    | some f =>
      obtain ⟨n, hpos, -, hhi, hends⟩ := endsAfter_of_runMicro (lasts_inFlightMicro _) hcycle hrun rfl hrest
      exact ⟨n, hpos, hhi, nofun, hends⟩

/-- Settles O34: the calls of `step_cycle()` that a step is end the sequence, and there are 2 to 7 of them from a boundary. -/
theorem stepEndsAtABoundary : Obligations.StepEndsAtABoundary := by
  intro s t h
  have hindex : t.seq = none → cycleIndex t = 0 := fun hseq => by rw [cycleIndex, hseq]
  rcases endsAfter_of_step h with ⟨n, -, hle, htwo, hends⟩ | ⟨hseq, -, ht, hrun⟩
  · refine ⟨hends.seq, hindex hends.seq, hends.run, fun hs => ?_⟩
    have hlo := htwo hs
    have hclock := hends.clock
    omega
  · exact ⟨ht, hindex ht, hrun, fun hs => absurd hs hseq⟩

/-- Settles O35: the calls of `step_cycle()` that a step is, or the one call on a sequence with no cycle left. -/
theorem stepIsRepeatedCycles : Obligations.StepIsRepeatedCycles := by
  intro s t h
  rcases endsAfter_of_step h with ⟨n, hpos, hle, -, hends⟩ | ⟨-, hcycle, -, -⟩
  · exact ⟨n, hpos, hle, hends.runs, hends.inside⟩
  · exact ⟨1, Nat.le_refl 1, by decide, (runCycles_one s).trans hcycle, fun k _ _ => by omega⟩

/-- The configuration and the cells that are neither RAM nor colour RAM are those of `s`. -/
structure FixedCellsOf (s t : State) : Prop where
  cfg : t.cfg = s.cfg
  wf : Memory.wf t.mem = true
  cells : ∀ a, region s.cfg a ≠ .ram → region s.cfg a ≠ .colour → cell t.mem a = cell s.mem a

theorem FixedCellsOf.clock {b : BusOp} {act : NmiAct} {s t u : State} {o : Obs} (h : FixedCellsOf s t)
    (hclock : clock b act t = .next (o, u)) : FixedCellsOf s u := by
  have hclocked := clocked_of_clock hclock
  refine ⟨hclocked.cfg.trans h.cfg, ?_, fun a hram hcolour => ?_⟩
  all_goals rcases hclocked.mem with hmem | ⟨a', v, hmem⟩ <;> rw [hmem]
  · exact h.wf
  · exact Memory.wf_storeByte h.wf a' v
  · exact h.cells a hram hcolour
  · rw [cell_storeByte h.wf]
    split
    case isFalse => exact h.cells a hram hcolour
    case isTrue heq =>
      subst heq
      unfold cellAfterWrite
      rw [h.cfg]
      split
      case h_1 hr => exact absurd hr hram
      case h_2 hr => exact absurd hr hcolour
      all_goals exact h.cells a hram hcolour

/-- Settles O33: each clock keeps the configuration and those cells, so a step does. -/
theorem onlyRamAndColourCellsChange : Obligations.OnlyRamAndColourCellsChange := by
  intro s t hwf h
  have hfixed : FixedCellsOf s t := step_keeps (P := FixedCellsOf s) (fun _ _ h => ⟨h.cfg, h.wf, h.cells⟩)
    (fun h => h.clock) (fun _ h => ⟨h.cfg, h.wf, h.cells⟩) ⟨rfl, hwf, fun _ _ _ => rfl⟩ h
  exact ⟨hfixed.cfg, hfixed.cells⟩

/-- The invariant but for the sequence in progress. -/
structure Sound (s : State) : Prop where
  cfg : s.cfg.wf = true
  mem : Memory.wf s.mem = true
  colour : ∀ a, region s.cfg a = .colour → cell s.mem a &&& 0xF0#8 = 0#8
  viaA : s.viaA.legal
  viaB : s.viaB.legal
  vic : s.vic.Legal s.cfg

theorem lowNibble_and_high : ∀ v : Byte, v &&& 0x0F#8 &&& 0xF0#8 = 0#8 := by decide

/-- A clock that goes on keeps the invariant: each part by the law of the component it is about. -/
theorem Sound.clock {b : BusOp} {act : NmiAct} {s t : State} {o : Obs} (h : Sound s)
    (hclock : clock b act s = .next (o, t)) : Sound t := by
  obtain ⟨hcfg, -, -, -, hmem, hA, hB, c, out, g, hcycle, hvic⟩ := clocked_of_clock hclock
  have hlegal : c.Legal s.cfg := vicCycle_legal h.cfg h.vic hcycle
  refine ⟨hcfg ▸ h.cfg, ?_, fun a ha => ?_, hA h.viaA, hB h.viaB, ?_⟩
  · rcases hmem with hmem | ⟨a, v, hmem⟩ <;> rw [hmem]
    · exact h.mem
    · exact Memory.wf_storeByte h.mem a v
  · rw [hcfg] at ha
    rcases hmem with hmem | ⟨a', v, hmem⟩ <;> rw [hmem]
    · exact h.colour a ha
    · rw [cell_storeByte h.mem]
      split
      case isTrue heq =>
        subst heq
        simp only [cellAfterWrite, ha, lowNibble_and_high]
      case isFalse => exact h.colour a ha
  · rw [hcfg, hvic]
    exact ⟨hlegal.h, hlegal.v, hlegal.vPend, hlegal.fs, hlegal.columns, hlegal.rows, hlegal.apre, hlegal.sacc, hlegal.lfsr⟩

theorem Invariant.sound {s : State} (h : Invariant s) : Sound s := ⟨h.cfg, h.mem, h.colour, h.viaA, h.viaB, h.vic⟩

/-- Settles O31: each clock keeps the invariant but for the sequence in progress, and a step leaves none. -/
theorem everyStepKeepsTheInvariant : Obligations.EveryStepKeepsTheInvariant := by
  intro s t hinv h
  have hsound : Sound t := step_keeps (P := Sound) (fun _ _ h => ⟨h.cfg, h.mem, h.colour, h.viaA, h.viaB, h.vic⟩)
    (fun h => h.clock) (fun _ h => ⟨h.cfg, h.mem, h.colour, h.viaA, h.viaB, h.vic⟩) hinv.sound h
  obtain ⟨hseq, -⟩ := stepEndsAtABoundary s t h
  exact ⟨hsound.cfg, hsound.mem, hsound.colour, hsound.viaA, hsound.viaB, hsound.vic, fun f hf => by
    rw [hseq] at hf
    cases hf⟩

end Sys2Proof.Machine
end

section
/-! The obligations about the stack and the control transfers (O13, O14, O16 to O20): each script cycle by cycle, through the
rules of a push, a pull and a read. -/

namespace Sys2Proof.Machine

/-! ## The stack pointer over several pushes and pulls (R180, R181) -/

theorem pulled_pulled (r : Regs) : pulled (pulled r) = { r with s := r.s + 2 } :=
  congrArg (fun x => ({ r with s := x } : Regs)) (BitVec.add_assoc r.s 1 1)

theorem pushed_pushed (r : Regs) : pushed (pushed r) = { r with s := r.s - 2 } :=
  congrArg (fun x => ({ r with s := x } : Regs)) (BitVec.sub_sub r.s 1 1)

/-! ## One push and one pull (R183 to R186, R529) -/

/-- Everything the push of one byte can do: the dummy read at `PC`, then the byte at `$0100 + S`. -/
theorem pushByte_completes {s : State} (hwf : Memory.wf s.mem = true) (hready : Ready s) (hpc : Accessible s.cfg s.regs.pc)
    (v : Byte) :
    ∃ t, runMicro (fetchAt s.regs fun _ => push s.regs v .done) s = .next t ∧
      t.regs = { s.regs with s := s.regs.s - 1 } ∧ t.latch = v ∧ cell t.mem (stackAddr s.regs.s) = v ∧
      (∀ b, b ≠ stackAddr s.regs.s → cell t.mem b = cell s.mem b) ∧ ChipsKept s t ∧ Kept 2 s t := by
  obtain ⟨_, u, hfetch, -, -, -, hquiet⟩ := runMicro_fetchAt hready (r := s.regs) hpc
  obtain ⟨t, hpush, hlatch, hmem, -, hchips, hkept⟩ := runMicro_push hquiet.ready s.regs v
  rw [hquiet.mem] at hmem
  refine ⟨t.withRegs (pushed s.regs), by rw [hfetch, hpush, runMicro_done], rfl, hlatch, ?_, fun b hb => ?_,
    chipsKept_withRegs (hquiet.chips.trans hchips) _, kept_withRegs (hquiet.kept.trans hkept) _⟩
  · rw [State.withRegs_mem, hmem, cell_pushed hwf, if_pos rfl]
  · rw [State.withRegs_mem, hmem, cell_pushed hwf, if_neg hb]

/-- Everything the pull of one byte can do: the dummy reads at `PC` and at the top of the stack, then the byte at
`$0100 + S + 1`. -/
theorem pullByte_completes {s : State} (hready : Ready s) (hpc : Accessible s.cfg s.regs.pc) (f : Byte → Regs → Regs) :
    let m := cell s.mem (stackAddr (s.regs.s + 1))
    ∃ t, runMicro (fetchAt s.regs fun _ => prepull s.regs fun r => rd r (stackAddr r.s) fun v => .done (f v r)) s = .next t ∧
      t.regs = f m { s.regs with s := s.regs.s + 1 } ∧ t.latch = m ∧ (∀ b, cell t.mem b = cell s.mem b) ∧ ChipsKept s t ∧
      Kept 3 s t := by
  intro m
  obtain ⟨_, u, hfetch, -, -, -, hquiet⟩ := runMicro_fetchAt hready (r := s.regs) hpc
  obtain ⟨v, hdummy, -, hquiet'⟩ := runMicro_stackRead hquiet.ready s.regs s.regs.s
  obtain ⟨w, hread, hlatch, hquiet''⟩ := runMicro_stackRead hquiet'.ready (pulled s.regs) (pulled s.regs).s
  have hq := (hquiet.trans hquiet').trans hquiet''
  have hm : cell v.mem (stackAddr (pulled s.regs).s) = m := by rw [hquiet'.mem, hquiet.mem]; rfl
  rw [hm] at hread hlatch
  exact ⟨w.withRegs (f m (pulled s.regs)), by rw [hfetch, prepull, hdummy, hread, runMicro_done], rfl, hlatch,
    fun b => by rw [State.withRegs_mem, hq.mem], chipsKept_withRegs hq.chips _, kept_withRegs hq.kept _⟩

/-- Settles O13: both push a byte, and neither changes another register. -/
theorem pushesStoreOneByte : Obligations.PushesStoreOneByte := by
  intro s hwf hready hpc
  refine ⟨?pha, ?php⟩
  case pha => rw [exec_eq_runMicro]; exact pushByte_completes hwf hready hpc s.regs.a
  case php => rw [exec_eq_runMicro]; exact pushByte_completes hwf hready hpc (packP s.regs.p true)

/-- Settles O14: both pull a byte, `PLA` into A and `PLP` into the flags. -/
theorem pullsLoadOneByte : Obligations.PullsLoadOneByte := by
  intro s hready hpc
  refine ⟨?pla, ?plp⟩
  case pla => rw [exec_eq_runMicro]; exact pullByte_completes hready hpc loadA
  case plp => rw [exec_eq_runMicro]; exact pullByte_completes hready hpc fun v r => { r with p := unpackP v }

/-! ## Jumps (R249, R250) -/

/-- Settles O16: the absolute form by its script, which has no cycle, the indirect form by its two read clocks. -/
theorem jumpsLoadThePc : Obligations.JumpsLoadThePc := by
  refine ⟨fun _ _ => rfl, fun a s hready hlo hhi => ?_⟩
  obtain ⟨lo, u, hclocks, hclock, hread, hlobyte, hregs, -, hquiet⟩ := runMicro_rd_same hready hlo rfl
  obtain ⟨hi, w, -, hclock', hread', hhibyte, -, hlatch, hquiet'⟩ :=
    runMicro_rd_same hquiet.ready (a := wordOf (hiByte a) (loByte a + 1)) (hquiet.cfg ▸ hhi) hregs
  have hq := hquiet.trans hquiet'
  have hexec : exec (.jmpInd a) s = .next (w.withRegs { s.regs with pc := wordOf hi lo }) := by
    rw [exec_eq_runMicro, microOf, microJmpInd, hread, hread', runMicro_done]
  exact ⟨_, lo, hi, hexec, hlobyte, readsByte_of_quiet hquiet hhibyte, ⟨u, s, _, rfl, hclock, rfl⟩,
    ⟨w, ⟨u, _, hclocks [], hclock', rfl⟩, rfl⟩, rfl, hlatch, fun b => by rw [State.withRegs_mem, hq.mem],
    chipsKept_withRegs hq.chips _, kept_withRegs hq.kept _⟩

/-! ## Subroutine call and return (R251, R252) -/

/-- Everything the push of a word can do: the high byte at `$0100 + S`, the low byte below it (R182). -/
theorem runMicro_pushWord {s : State} (hwf : Memory.wf s.mem = true) (hready : Ready s) (r : Regs) (w : Word) :
    ∃ t, (∀ next, runMicro (pushWord r w next) s = runMicro (next { r with s := r.s - 2 }) t) ∧ t.latch = loByte w ∧
      (∀ b, cell t.mem b = if b = stackAddr (r.s - 1) then loByte w else if b = stackAddr r.s then hiByte w
        else cell s.mem b) ∧ Ready t ∧ ChipsKept s t ∧ Kept 2 s t := by
  obtain ⟨u, hpush, -, hmem, hready', hchips, hkept⟩ := runMicro_push hready r (hiByte w)
  obtain ⟨t, hpush', hlatch, hmem', hready'', hchips', hkept'⟩ := runMicro_push hready' (pushed r) (loByte w)
  have hwf' : Memory.wf u.mem = true := hmem ▸ Memory.wf_memPut hwf _ (stackAddr r.s).isLt
  refine ⟨t, fun next => by rw [pushWord, hpush, hpush', pushed_pushed], hlatch, fun b => ?_, hready'', hchips.trans hchips',
    hkept.trans hkept'⟩
  rw [hmem', cell_pushed hwf', hmem, cell_pushed hwf]
  rfl

/-- Settles O17: a dummy read, the push of the return address, and the fetch of the last byte on the state the pushes left. -/
theorem jsrPushesTheReturnAddress : Obligations.JsrPushesTheReturnAddress := by
  intro a s hwf hready hpc
  obtain ⟨u, hdummy, -, hquiet⟩ := runMicro_stackRead hready s.regs s.regs.s
  obtain ⟨v, hpush, hlatch, hcell, hready', hchips, hkept⟩ :=
    runMicro_pushWord (hquiet.mem ▸ hwf) hquiet.ready s.regs s.regs.pc
  have hkept3 : Kept 3 s v := hquiet.kept.trans hkept
  have hchips3 : ChipsKept s v := hquiet.chips.trans hchips
  have hcfg : v.cfg = s.cfg := hkept3.ran.cfg
  obtain ⟨hi, w, hclock, hbyte, -, -, hquiet'⟩ :=
    clock_fetch (s := v.withRegs { s.regs with s := s.regs.s - 2 }) hready' (a := s.regs.pc) (hcfg.symm ▸ hpc)
  have hmem : w.mem = v.mem := hquiet'.mem
  have hexec : exec (.jsr a) s =
      .next (w.withRegs { s.regs with s := s.regs.s - 2, pc := wordOf hi (loByte a) }) := by
    rw [exec_eq_runMicro, microOf, microJsr, hdummy, hpush, fetchAt, runMicro_cycle, hclock]
    rfl
  obtain ⟨hne, -, -⟩ := stack_sub_ne s.regs.s
  simp only [hquiet.mem] at hcell
  refine ⟨_, hi, hexec, rfl, ⟨v.withRegs { s.regs with s := s.regs.s - 2 }, _, w, hclock, rfl, rfl, hmem.symm, hlatch,
    chipsKept_withRegs hchips3 _, kept_withRegs hkept3 _⟩, fun hm => ?_, ?_, ?_, fun b hb hb' => ?_, ?_, ?_⟩
  · rw [State.withRegs_mem, hmem]
    exact hbyte.cell (by simpa [hcfg] using hm)
  · rw [State.withRegs_mem, hmem, hcell, if_neg hne, if_pos rfl]
  · rw [State.withRegs_mem, hmem, hcell, if_pos rfl]
  · rw [State.withRegs_mem, hmem, hcell, if_neg hb', if_neg hb]
  · exact chipsKept_withRegs (hchips3.trans (quiet_of_withRegs hquiet').chips) _
  · exact kept_withRegs (hkept3.trans (kept_of_withRegs hquiet'.kept)) _

/-- Settles O18: two dummy reads, the pull of the address low byte first, and the dummy read there before `PC` is stepped. -/
theorem rtsReturnsPastThePulledAddress : Obligations.RtsReturnsPastThePulledAddress := by
  intro s hready hpc w hw
  obtain ⟨_, u, hfetch, -, -, -, hquiet⟩ := runMicro_fetchAt hready (r := s.regs) hpc
  obtain ⟨v, hdummy, -, hquiet'⟩ := runMicro_stackRead hquiet.ready s.regs s.regs.s
  obtain ⟨x, hlo, -, hquietlo⟩ := runMicro_stackRead hquiet'.ready (pulled s.regs) (s.regs.s + 1)
  obtain ⟨y, hhi, -, hquiethi⟩ := runMicro_stackRead hquietlo.ready { s.regs with s := s.regs.s + 2 } (s.regs.s + 2)
  have hq2 := hquiet.trans hquiet'
  have hq3 := hq2.trans hquietlo
  have hq4 := hq3.trans hquiethi
  rw [hq2.mem] at hlo
  rw [hq3.mem] at hhi
  obtain ⟨_, t, hlast, -, -, -, hquietlast⟩ := runMicro_fetchAt hq4.ready
    (r := { s.regs with s := s.regs.s + 2, pc := w }) (hq4.cfg.symm ▸ hw)
  have hq := hq4.trans hquietlast
  have hrun : exec .rts s = .next (t.withRegs { s.regs with s := s.regs.s + 2, pc := w + 1 }) := by
    rw [exec_eq_runMicro, microOf, microRts, hfetch, prepull, hdummy, pulled_pulled]
    exact (hlo _).trans ((hhi _).trans (hlast _))
  exact ⟨_, hrun, rfl, fun b => by rw [State.withRegs_mem, hq.mem], chipsKept_withRegs hq.chips _, kept_withRegs hq.kept _⟩

/-! ## Software interrupt and return (R270, R271) -/

/-- Settles O19: the dummy read of the byte after the opcode, then the entry that may be taken over. -/
theorem brkEntersThroughItsVector : Obligations.BrkEntersThroughItsVector := by
  intro s hwf hready hpc
  obtain ⟨_, u, hfetch, -, -, -, hquiet⟩ := runMicro_fetchAt hready (r := s.regs) hpc
  rw [exec_eq_runMicro, microOf, microBrk, hfetch]
  exact takeInterrupt_hijack_entered hwf hquiet (s.regs.pc + 1) true

/-- Settles O20: two dummy reads, then the flags and the address low byte first, as RTS pulls its address but with nothing
added. -/
theorem rtiRestoresFlagsAndPc : Obligations.RtiRestoresFlagsAndPc := by
  intro s hready hpc m
  obtain ⟨_, u, hfetch, -, -, -, hquiet⟩ := runMicro_fetchAt hready (r := s.regs) hpc
  obtain ⟨v, hdummy, -, hquiet'⟩ := runMicro_stackRead hquiet.ready s.regs s.regs.s
  have hq2 := hquiet.trans hquiet'
  obtain ⟨x, hflags, -, hquietflags⟩ := runMicro_stackRead hq2.ready (pulled s.regs) (s.regs.s + 1)
  have hq3 := hq2.trans hquietflags
  obtain ⟨y, hlo, -, hquietlo⟩ :=
    runMicro_stackRead hq3.ready (pulled { pulled s.regs with p := unpackP m }) (s.regs.s + 1 + 1)
  have hq4 := hq3.trans hquietlo
  obtain ⟨t, hhi, -, hquiethi⟩ := runMicro_stackRead hq4.ready
    (pulled (pulled { pulled s.regs with p := unpackP m })) (s.regs.s + 1 + 1 + 1)
  have hq := hq4.trans hquiethi
  rw [hq2.mem] at hflags
  rw [hq3.mem] at hlo
  rw [hq4.mem] at hhi
  have h2 : s.regs.s + 1 + 1 = s.regs.s + 2 := BitVec.add_assoc s.regs.s 1 1
  have h3 : s.regs.s + 1 + 1 + 1 = s.regs.s + 3 := by rw [h2]; exact BitVec.add_assoc s.regs.s 2 1
  have hrun : exec .rti s = .next (t.withRegs
      { s.regs with
        s := s.regs.s + 1 + 1 + 1
        pc := wordOf (cell s.mem (stackAddr (s.regs.s + 1 + 1 + 1))) (cell s.mem (stackAddr (s.regs.s + 1 + 1)))
        p := unpackP m }) := by
    rw [exec_eq_runMicro, microOf, microRti, returnFromInterrupt, hfetch, prepull, hdummy]
    exact (hflags _).trans ((hlo _).trans (hhi _))
  rw [h3, h2] at hrun
  exact ⟨_, hrun, rfl, fun b => by rw [State.withRegs_mem, hq.mem], chipsKept_withRegs hq.chips _, kept_withRegs hq.kept _⟩

end Sys2Proof.Machine
end

section
/-! The obligations about the timers (O44, O45), the ports (O49) and the lines CA2 and CB2 (O51) of a timer chip, and a timer
as its counter, its flag and its output alone, which its chip's inputs cannot reach (R350, R353, R354, R356). -/

namespace Sys2Proof.Machine

/-! ## Ports (R348, R349) -/

/-- A port merges its output register with what comes in, by its directions. -/
theorem getLsbD_merged (out dir inp : Byte) {i : Nat} (hi : i < 8) :
    ((out &&& dir) ||| (inp &&& ~~~dir)).getLsbD i = if dir.getLsbD i then out.getLsbD i else inp.getLsbD i := by
  simp only [BitVec.getLsbD_or, BitVec.getLsbD_and, BitVec.getLsbD_not, hi, decide_true, Bool.true_and]
  cases dir.getLsbD i <;> simp

theorem getLsbD_portAValue (pins : PortInputs) (c : Via) {i : Nat} (hi : i < 8) :
    (portAValue pins c).getLsbD i =
      if c.ddra.getLsbD i then c.ora.getLsbD i else if c.acr.getLsbD 0 then c.ila.getLsbD i else pins.pa.getLsbD i := by
  rw [portAValue, getLsbD_merged _ _ _ hi, apply_ite (BitVec.getLsbD · i)]
  rfl

/-- Bit 7 replaced by the level a timer drives (R354). -/
theorem getLsbD_underPb7 (level : Bool) (v : Byte) {i : Nat} (hi : i < 8) :
    (BitVec.ofBool level ++ v.extractLsb' 0 7 : Byte).getLsbD i = if i = 7 then level else v.getLsbD i := by
  rw [BitVec.getLsbD_append]
  split
  case isTrue hlow => rw [if_neg hlow.ne, BitVec.getLsbD_extractLsb', Nat.zero_add, decide_eq_true hlow, Bool.true_and]
  case isFalse hhigh =>
    obtain rfl : i = 7 := by omega
    rw [if_pos rfl]
    cases level <;> rfl

theorem getLsbD_portBValue (pins : PortInputs) (c : Via) {i : Nat} (hi : i < 8) :
    (portBValue pins c).getLsbD i =
      if i = 7 ∧ c.acr.getLsbD 7 = true then c.pb7
      else if c.ddrb.getLsbD i then c.orb.getLsbD i
      else if c.acr.getLsbD 1 then c.ilb.getLsbD i else pins.pb.getLsbD i := by
  have hmerged := getLsbD_merged c.orb c.ddrb (if pbLatchOn c then c.ilb else pins.pb) hi
  rw [apply_ite (BitVec.getLsbD · i) (pbLatchOn c = true)] at hmerged
  rw [portBValue]
  by_cases henabled : pb7Enabled c = true
  · have hbit : c.acr.getLsbD 7 = true := henabled
    simp only [if_pos henabled, getLsbD_underPb7 _ _ hi, hmerged, hbit, and_true]
    rfl
  · have hbit : ¬(i = 7 ∧ c.acr.getLsbD 7 = true) := fun h => henabled h.2
    rw [if_neg henabled, hmerged, if_neg hbit]
    rfl

/-- Settles O49: the two port values bit by bit; register F reads port A and returns the chip as it is. -/
theorem portReads : Obligations.PortReads := fun c pins _ hi =>
  ⟨getLsbD_portAValue pins c hi, rfl, getLsbD_portBValue pins c hi⟩

/-! ## Edges of CA2 and CB2 (R365) -/

/-- The edge CA2's control field selects, by the bits of `PCR`. -/
theorem modeEdge_ca2Mode (pcr : Byte) (prev now : Bool) :
    modeEdge (ca2Mode pcr) prev now = (!pcr.getLsbD 3 && activeEdge (pcr.getLsbD 2) prev now) := by
  simp [modeEdge, ca2Mode]

/-- The edge CB2's control field selects, by the bits of `PCR`. -/
theorem modeEdge_cb2Mode (pcr : Byte) (prev now : Bool) :
    modeEdge (cb2Mode pcr) prev now = (!pcr.getLsbD 7 && activeEdge (pcr.getLsbD 6) prev now) := by
  simp [modeEdge, cb2Mode]

/-- Settles O51: the timers leave the three flags and the remembered levels as the control lines set them. -/
theorem secondControlLineEdges : Obligations.SecondControlLineEdges := by
  intro c p
  have hca2 : (controlStep p c).ifr.getLsbD 0 = (c.ifr.getLsbD 0 || modeEdge (ca2Mode c.pcr) c.ca2Prev p.ca2) := by
    rw [controlStep_ifr, getLsbD_flagIf_ne (by decide), getLsbD_flagIf_same (by decide), getLsbD_flagIf_ne (by decide),
      getLsbD_flagIf_ne (by decide)]
  have hcb2 : (controlStep p c).ifr.getLsbD 3 = (c.ifr.getLsbD 3 || modeEdge (cb2Mode c.pcr) c.cb2Prev p.cb2) := by
    rw [controlStep_ifr, getLsbD_flagIf_same (by decide), getLsbD_flagIf_ne (by decide), getLsbD_flagIf_ne (by decide),
      getLsbD_flagIf_ne (by decide)]
  have hshift : (controlStep p c).ifr.getLsbD 2 = c.ifr.getLsbD 2 := by
    rw [controlStep_ifr, getLsbD_flagIf_ne (by decide), getLsbD_flagIf_ne (by decide), getLsbD_flagIf_ne (by decide),
      getLsbD_flagIf_ne (by decide)]
  rw [modeEdge_ca2Mode] at hca2
  rw [modeEdge_cb2Mode] at hcb2
  refine ⟨(viaCycle_ifr_getLsbD p c (by decide) (by decide)).trans hca2,
    (viaCycle_ifr_getLsbD p c (by decide) (by decide)).trans hcb2,
    (viaCycle_ifr_getLsbD p c (by decide) (by decide)).trans hshift, ?_⟩
  obtain ⟨_, _, _, _, _, _, _, _, _, h⟩ := viaCycle_eq p c
  rw [h]
  exact ⟨rfl, rfl⟩

/-! ## A timer on its own (R350) -/

/-- What a timer's cycle reads and writes: its counter, whether it was loaded in this clock, whether it is armed, its flag, and
the level it drives. -/
@[ext] structure TimerView where
  counter : Word
  loaded : Bool
  armed : Bool
  flag : Bool
  level : Bool

namespace TimerView

/-- A cycle of a timer: the clock of the load does not count, the others count down to zero, where `timeout` says what is next. -/
def step (timeout : TimerView → TimerView) (t : TimerView) : TimerView :=
  if t.loaded then { t with loaded := false }
  else if t.counter ≠ 0#16 then { t with counter := t.counter - 1 }
  else timeout t

/-- A free-running timer reloads its latch and inverts the level it drives (R353, R354). -/
def reload (latch : Word) (driven : Bool) (t : TimerView) : TimerView :=
  { t with counter := latch, flag := true, level := if driven then !t.level else t.level }

/-- A one-shot timer sets its flag, and drives its level high, only while it is armed (R353, R354, R356). -/
def fire (driven : Bool) (t : TimerView) : TimerView :=
  if t.armed then
    { t with counter := 0xFFFF#16, flag := true, armed := false, level := if driven then true else t.level }
  else { t with counter := 0xFFFF#16 }

section
variable {timeout : TimerView → TimerView} {t : TimerView}

theorem step_loaded (h : t.loaded = true) : t.step timeout = { t with loaded := false } := if_pos h

theorem step_counting (h : t.loaded = false) (hc : t.counter ≠ 0#16) :
    t.step timeout = { t with counter := t.counter - 1 } := by
  rw [step, h, if_neg Bool.false_ne_true, if_pos hc]

theorem step_timeout (h : t.loaded = false) (hc : t.counter = 0#16) : t.step timeout = timeout t := by
  rw [step, h, if_neg Bool.false_ne_true, if_neg (not_not.mpr hc)]

theorem fire_armed {driven : Bool} (h : t.armed = true) : t.fire driven =
    { t with counter := 0xFFFF#16, flag := true, armed := false, level := if driven then true else t.level } := if_pos h

theorem fire_disarmed {driven : Bool} (h : t.armed = false) : t.fire driven = { t with counter := 0xFFFF#16 } := by
  rw [fire, h, if_neg Bool.false_ne_true]

end

end TimerView

/-- Timer 1 of a chip. -/
def timer1Of (c : Via) : TimerView := ⟨c.t1c, c.t1Loaded, c.t1Armed, c.ifr.getLsbD 6, c.pb7⟩

/-- Timer 2 of a chip, which drives no level. -/
def timer2Of (c : Via) : TimerView := ⟨c.t2c, c.t2Loaded, c.t2Armed, c.ifr.getLsbD 5, false⟩

/-- What a chip's timer 1 does at zero (R353). -/
def timeout1Of (c : Via) : TimerView → TimerView :=
  if t1FreeRunning c then .reload c.t1l (pb7Enabled c) else .fire (pb7Enabled c)

theorem timer1Of_controlStep (p : PortInputs) (c : Via) : timer1Of (controlStep p c) = timer1Of c := by
  have hflag : (controlStep p c).ifr.getLsbD 6 = c.ifr.getLsbD 6 := by
    rw [controlStep_ifr, getLsbD_flagIf_ne (by decide), getLsbD_flagIf_ne (by decide), getLsbD_flagIf_ne (by decide),
      getLsbD_flagIf_ne (by decide)]
  exact TimerView.ext rfl rfl rfl hflag rfl

theorem timer2Of_controlStep (p : PortInputs) (c : Via) : timer2Of (controlStep p c) = timer2Of c := by
  have hflag : (controlStep p c).ifr.getLsbD 5 = c.ifr.getLsbD 5 := by
    rw [controlStep_ifr, getLsbD_flagIf_ne (by decide), getLsbD_flagIf_ne (by decide), getLsbD_flagIf_ne (by decide),
      getLsbD_flagIf_ne (by decide)]
  exact TimerView.ext rfl rfl rfl hflag rfl

theorem timer1Of_timer1Step (c : Via) : timer1Of (timer1Step c) = (timer1Of c).step (timeout1Of c) := by
  have hset : (setFlag c.ifr 6).getLsbD 6 = true := by simp [setFlag]
  unfold timer1Step
  split
  case isTrue hloaded => exact (TimerView.step_loaded (t := timer1Of c) hloaded).symm
  case isFalse hloaded =>
    have hloaded := eq_false_of_ne_true hloaded
    split
    case isTrue hc => exact (TimerView.step_counting (t := timer1Of c) hloaded (bne_iff_ne.mp hc)).symm
    case isFalse hc =>
      have hzero : c.t1c = 0#16 := by simpa using hc
      rw [TimerView.step_timeout (t := timer1Of c) hloaded hzero, timeout1Of]
      split
      · exact TimerView.ext rfl rfl rfl hset rfl
      · split
        case isTrue harmed =>
          rw [TimerView.fire_armed (t := timer1Of c) harmed]
          exact TimerView.ext rfl rfl rfl hset rfl
        case isFalse harmed => exact (TimerView.fire_disarmed (t := timer1Of c) (eq_false_of_ne_true harmed)).symm

theorem timer1Of_timer2Step (c : Via) : timer1Of (timer2Step c) = timer1Of c := by
  obtain ⟨_, _, _, _, h⟩ := timer2Step_eq c
  rw [h]
  exact TimerView.ext rfl rfl rfl (getLsbD_flagIf_ne (by decide) ..) rfl

theorem timer2Of_timer1Step (c : Via) : timer2Of (timer1Step c) = timer2Of c := by
  obtain ⟨_, _, _, _, _, h⟩ := timer1Step_eq c
  rw [h]
  exact TimerView.ext rfl rfl rfl (getLsbD_flagIf_ne (by decide) ..) rfl

theorem timer2Of_timer2Step {c : Via} (hacr : bitOf c.acr 5 = false) :
    timer2Of (timer2Step c) = (timer2Of c).step (.fire false) := by
  have hset : (setFlag c.ifr 5).getLsbD 5 = true := by simp [setFlag]
  rw [timer2Step, hacr, if_neg Bool.false_ne_true]
  split
  case isTrue hloaded => exact (TimerView.step_loaded (t := timer2Of c) hloaded).symm
  case isFalse hloaded =>
    have hloaded := eq_false_of_ne_true hloaded
    split
    case isTrue hc => exact (TimerView.step_counting (t := timer2Of c) hloaded (bne_iff_ne.mp hc)).symm
    case isFalse hc =>
      have hzero : c.t2c = 0#16 := by simpa using hc
      rw [TimerView.step_timeout (t := timer2Of c) hloaded hzero]
      split
      case isTrue harmed =>
        rw [TimerView.fire_armed (t := timer2Of c) harmed]
        exact TimerView.ext rfl rfl rfl hset rfl
      case isFalse harmed => exact (TimerView.fire_disarmed (t := timer2Of c) (eq_false_of_ne_true harmed)).symm

/-- A chip's cycle is a cycle of its timer 1, whatever the inputs. -/
theorem timer1Of_viaCycle (p : PortInputs) (c : Via) :
    timer1Of (viaCycle p c) = (timer1Of c).step (timeout1Of c) := by
  rw [viaCycle, timer1Of_timer2Step, timer1Of_timer1Step, timer1Of_controlStep]
  rfl

/-- A chip's cycle is a cycle of its timer 2, whatever the inputs. -/
theorem timer2Of_viaCycle (p : PortInputs) {c : Via} (hacr : bitOf c.acr 5 = false) :
    timer2Of (viaCycle p c) = (timer2Of c).step (.fire false) := by
  have hacr' : bitOf (timer1Step (controlStep p c)).acr 5 = false :=
    (congrArg (bitOf · 5) (acr_of_programmed (by simp))).trans hacr
  rw [viaCycle, timer2Of_timer2Step hacr', timer2Of_timer1Step, timer2Of_controlStep]

/-! ## Runs of cycles -/

theorem viaCycles_programmed (ps : List PortInputs) (c : Via) : (viaCycles ps c).programmed = c.programmed := by
  induction ps generalizing c with
  | nil => rfl
  | cons p ps ih => exact (ih _).trans (viaCycle_programmed p c)

theorem timeout1Of_of_programmed {c d : Via} (h : c.programmed = d.programmed) : timeout1Of c = timeout1Of d := by
  have hacr := acr_of_programmed h
  have hlatch : c.t1l = d.t1l := congrArg Programmed.t1l h
  rw [timeout1Of, timeout1Of, t1FreeRunning, t1FreeRunning, pb7Enabled, pb7Enabled, hacr, hlatch]

theorem timer1Of_viaCycles (ps : List PortInputs) (c : Via) :
    timer1Of (viaCycles ps c) = (TimerView.step (timeout1Of c))^[ps.length] (timer1Of c) := by
  induction ps generalizing c with
  | nil => rfl
  | cons p ps ih =>
    rw [viaCycles, ih, timer1Of_viaCycle, timeout1Of_of_programmed (viaCycle_programmed p c)]
    rfl

theorem timer2Of_viaCycles (ps : List PortInputs) {c : Via} (hacr : bitOf c.acr 5 = false) :
    timer2Of (viaCycles ps c) = (TimerView.step (.fire false))^[ps.length] (timer2Of c) := by
  induction ps generalizing c with
  | nil => rfl
  | cons p ps ih =>
    have hacr' : bitOf (viaCycle p c).acr 5 = false :=
      (congrArg (bitOf · 5) (acr_of_programmed (viaCycle_programmed p c))).trans hacr
    rw [viaCycles, ih hacr', timer2Of_viaCycle p hacr]
    rfl

/-- With `ACR[5] = 1` timer 2 stands still. -/
theorem timer2Of_viaCycles_stopped (ps : List PortInputs) {c : Via} (hacr : bitOf c.acr 5 = true) :
    timer2Of (viaCycles ps c) = timer2Of c := by
  induction ps generalizing c with
  | nil => rfl
  | cons p ps ih =>
    have hacr' : bitOf (viaCycle p c).acr 5 = true :=
      (congrArg (bitOf · 5) (acr_of_programmed (viaCycle_programmed p c))).trans hacr
    have hstop : timer2Step (timer1Step (controlStep p c)) = timer1Step (controlStep p c) :=
      if_pos ((congrArg (bitOf · 5) (acr_of_programmed (by simp))).trans hacr)
    rw [viaCycles, ih hacr', viaCycle, hstop, timer2Of_timer1Step, timer2Of_controlStep]

/-! ## Free-running (R353) -/

/-- The next count of a division: the remainder grows until it is the largest, and then the quotient does. -/
theorem succ_divMod (j n : Nat) :
    (j % (n + 1) = n ∧ (j + 1) % (n + 1) = 0 ∧ (j + 1) / (n + 1) = j / (n + 1) + 1) ∨
      (j % (n + 1) < n ∧ (j + 1) % (n + 1) = j % (n + 1) + 1 ∧ (j + 1) / (n + 1) = j / (n + 1)) := by
  have hj := Nat.mod_add_div j (n + 1)
  have hlt : j % (n + 1) < n + 1 := Nat.mod_lt j n.succ_pos
  rcases Nat.lt_or_eq_of_le (Nat.le_of_lt_succ hlt) with h | h
  · obtain ⟨hdiv, hmod⟩ := (Nat.div_mod_unique (Nat.zero_lt_succ n : 0 < n + 1)).mpr
      (⟨by omega, by omega⟩ : j % (n + 1) + 1 + (n + 1) * (j / (n + 1)) = j + 1 ∧ j % (n + 1) + 1 < n + 1)
    exact Or.inr ⟨h, hmod, hdiv⟩
  · obtain ⟨hdiv, hmod⟩ := (Nat.div_mod_unique (Nat.zero_lt_succ n : 0 < n + 1)).mpr
      (⟨by rw [Nat.mul_succ]; omega, by omega⟩ : 0 + (n + 1) * (j / (n + 1) + 1) = j + 1 ∧ 0 < n + 1)
    exact Or.inl ⟨h, hmod, hdiv⟩

/-- A free-running timer `k` cycles after it was loaded from its latch. -/
structure FreeRunsFor (latch : Word) (driven level : Bool) (k : Nat) (t : TimerView) : Prop where
  loaded : t.loaded = decide (k = 0)
  counter : t.counter.toNat = latch.toNat - (k - 1) % (latch.toNat + 1)
  flag : t.flag = decide (latch.toNat + 2 ≤ k)
  inverted : driven = true → t.level = decide ((k - 1) / (latch.toNat + 1) % 2 = 1)
  kept : driven = false → t.level = level

theorem FreeRunsFor.step {latch : Word} {driven level : Bool} {k : Nat} {t : TimerView}
    (h : FreeRunsFor latch driven level k t) : FreeRunsFor latch driven level (k + 1) (t.step (.reload latch driven)) := by
  obtain ⟨hloaded, hcounter, hflag, hinverted, hkept⟩ := h
  cases k with
  | zero =>
    rw [TimerView.step_loaded hloaded]
    exact ⟨rfl, hcounter, hflag.trans (by simp), hinverted, hkept⟩
  | succ j =>
    have hloaded : t.loaded = false := hloaded.trans (by simp)
    rw [Nat.add_sub_cancel] at hcounter hinverted
    rcases succ_divMod j latch.toNat with ⟨hlast, hmod, hdiv⟩ | ⟨hlast, hmod, hdiv⟩
    · have hzero : t.counter = 0#16 := by
        apply BitVec.eq_of_toNat_eq
        rw [hcounter, hlast, Nat.sub_self]
        rfl
      have hj := Nat.mod_le j (latch.toNat + 1)
      rw [TimerView.step_timeout hloaded hzero]
      refine ⟨hloaded.trans (by simp), ?_, ?_, fun hdriven => ?_, fun hdriven => ?_⟩
      · rw [Nat.add_sub_cancel, hmod]
        rfl
      · exact (decide_eq_true (by omega)).symm
      · rw [Nat.add_sub_cancel, hdiv, TimerView.reload, hdriven, if_pos rfl, hinverted hdriven, ← decide_not]
        exact decide_eq_decide.mpr (by omega)
      · rw [TimerView.reload, hdriven]
        exact hkept hdriven
    · have hne : t.counter ≠ 0#16 := fun hzero => by
        rw [hzero] at hcounter
        exact absurd hcounter (by simp; omega)
      rw [TimerView.step_counting hloaded hne]
      refine ⟨hloaded.trans (by simp), ?_, hflag.trans (decide_eq_decide.mpr ?_), fun hdriven => ?_, hkept⟩
      · rw [Nat.add_sub_cancel, hmod]
        have hlt := t.counter.isLt
        bv_omega
      · have hne : j ≠ latch.toNat := fun hj => by
          rw [hj, Nat.mod_eq_of_lt (Nat.lt_succ_self _)] at hlast
          exact hlast.false
        omega
      · rw [Nat.add_sub_cancel, hdiv]
        exact hinverted hdriven

theorem FreeRunsFor.iterate {latch : Word} {driven level : Bool} {t : TimerView}
    (h : FreeRunsFor latch driven level 0 t) (k : Nat) :
    FreeRunsFor latch driven level k ((TimerView.step (.reload latch driven))^[k] t) := by
  induction k with
  | zero => exact h
  | succ k ih =>
    rw [Function.iterate_succ_apply']
    exact ih.step

/-- A write of register 5 loads timer 1 (R351). -/
theorem viaWrite_t1 {v : Byte} {c c' : Via} (h : viaWrite 5#4 v c = .next c') : c' = loadT1 v c := by
  cases h
  rfl

/-- A write of register 9 loads timer 2 (R355). -/
theorem viaWrite_t2 {v : Byte} {c c' : Via} (h : viaWrite 9#4 v c = .next c') : c' = loadT2 v c := by
  cases h
  rfl

theorem getLsbD_clearFlag {i : Nat} (f : BitVec 7) : (clearFlag f i).getLsbD i = false := by
  simp [clearFlag]

theorem timer1Of_loadT1 (v : Byte) (c : Via) : timer1Of (loadT1 v c) =
    ⟨wordOf v (loByte c.t1l), true, true, false, if pb7Enabled c then false else c.pb7⟩ :=
  TimerView.ext rfl rfl rfl (getLsbD_clearFlag _) rfl

theorem timer2Of_loadT2 (v : Byte) (c : Via) : timer2Of (loadT2 v c) = ⟨wordOf v c.t2l, true, true, false, false⟩ :=
  TimerView.ext rfl rfl rfl (getLsbD_clearFlag _) rfl

/-- Settles O44: the chip's timer 1 is a free-running timer loaded from its latch, and its cycle at zero is a reload. -/
theorem freeRunningTimerPeriod : Obligations.FreeRunningTimerPeriod := by
  intro v c c' ps hfree hw
  obtain rfl := viaWrite_t1 hw
  have hreload : timeout1Of (loadT1 v c) = .reload (wordOf v (loByte c.t1l)) (pb7Enabled c) := if_pos hfree
  have hloaded : FreeRunsFor (wordOf v (loByte c.t1l)) (pb7Enabled c) c.pb7 0 (timer1Of (loadT1 v c)) := by
    rw [timer1Of_loadT1]
    refine ⟨rfl, by simp, (decide_eq_false (by omega)).symm, fun hdriven => ?_, fun hdriven => ?_⟩
    · rw [hdriven]
      simp
    · rw [hdriven]
      rfl
  have hrun := hloaded.iterate ps.length
  rw [← hreload, ← timer1Of_viaCycles] at hrun
  refine ⟨fun _ => hrun.counter, ?_, fun hdriven => ?_, hrun.kept, fun p hidle hzero => ?_⟩
  · exact (Bool.eq_iff_iff.mp hrun.flag).trans decide_eq_true_iff
  · exact (Bool.eq_iff_iff.mp (hrun.inverted hdriven)).trans decide_eq_true_iff
  · have hcycle : ∀ d : Via, d.programmed = (loadT1 v c).programmed → d.t1Loaded = false → d.t1c = 0#16 →
        timer1Of (viaCycle p d) = (timer1Of d).reload (wordOf v (loByte c.t1l)) (pb7Enabled c) := fun d hd hl hz => by
      rw [timer1Of_viaCycle, timeout1Of_of_programmed hd, hreload]
      exact TimerView.step_timeout (t := timer1Of d) hl hz
    have hkept := viaCycles_programmed ps (loadT1 v c)
    exact ⟨congrArg TimerView.counter (hcycle _ hkept hidle hzero),
      fun f => congrArg TimerView.flag (hcycle { viaCycles ps (loadT1 v c) with ifr := f } hkept hidle hzero)⟩

/-! ## One-shot (R353, R356) -/

/-- An armed one-shot timer `k` cycles after it was loaded with `n`. Its output, where it drives one, says that it has fired. -/
structure OneShotFor (n : Nat) (k : Nat) (t : TimerView) : Prop where
  loaded : t.loaded = decide (k = 0)
  counter : k < n + 2 → t.counter.toNat = n - (k - 1)
  flag : t.flag = decide (n + 2 ≤ k)
  armed : t.armed = !t.flag

theorem OneShotFor.flag_iff {n k : Nat} {t : TimerView} (h : OneShotFor n k t) : t.flag = true ↔ n + 2 ≤ k := by
  rw [h.flag, decide_eq_true_iff]

theorem OneShotFor.disarmed_iff {n k : Nat} {t : TimerView} (h : OneShotFor n k t) : t.armed = false ↔ n + 2 ≤ k := by
  rw [h.armed, Bool.not_eq_false', h.flag_iff]

/-- A loaded timer with its flag clear. -/
theorem oneShotFor_zero (latch : Word) (level : Bool) : OneShotFor latch.toNat 0 ⟨latch, true, true, false, level⟩ :=
  ⟨rfl, fun _ => rfl, (decide_eq_false (by omega)).symm, rfl⟩

theorem OneShotFor.step {n k : Nat} {driven : Bool} {t : TimerView} (h : OneShotFor n k t) :
    OneShotFor n (k + 1) (t.step (.fire driven)) := by
  obtain ⟨hloaded, hcounter, hflag, harmed⟩ := h
  rcases Nat.eq_zero_or_pos k with rfl | hk
  · rw [TimerView.step_loaded hloaded]
    exact ⟨rfl, fun _ => hcounter (by omega), hflag.trans (decide_eq_decide.mpr (by omega)), harmed⟩
  have hloaded : t.loaded = false := hloaded.trans (decide_eq_false hk.ne')
  have hnext : t.loaded = decide (k + 1 = 0) := hloaded.trans (decide_eq_false k.succ_ne_zero).symm
  by_cases hzero : t.counter = 0#16
  · rw [TimerView.step_timeout hloaded hzero]
    rcases Nat.lt_or_ge k (n + 2) with hbefore | hafter
    · have hcounter := hcounter hbefore
      rw [hzero] at hcounter
      have hlast : n + 2 ≤ k + 1 := by
        have hn : 0 = n - (k - 1) := hcounter
        omega
      have hunfired : t.flag = false := hflag.trans (decide_eq_false (by omega))
      rw [TimerView.fire_armed (by rw [harmed, hunfired]; rfl)]
      exact ⟨hnext, fun h => absurd h (by omega), (decide_eq_true hlast).symm, rfl⟩
    · have hfired : t.flag = true := hflag.trans (decide_eq_true hafter)
      rw [TimerView.fire_disarmed (by rw [harmed, hfired]; rfl)]
      exact ⟨hnext, fun h => absurd h (by omega), hfired.trans (decide_eq_true (by omega)).symm, harmed⟩
  · rw [TimerView.step_counting hloaded hzero]
    have hpos : 0 < t.counter.toNat := Nat.pos_of_ne_zero fun h0 => hzero (BitVec.eq_of_toNat_eq h0)
    refine ⟨hnext, fun h => ?_, hflag.trans (decide_eq_decide.mpr ?_), harmed⟩
    · have hcounter := hcounter (by omega)
      have hlt := t.counter.isLt
      bv_omega
    · rcases Nat.lt_or_ge k (n + 2) with hbefore | hafter
      · have hcounter := hcounter hbefore
        omega
      · omega

theorem OneShotFor.iterate {n : Nat} {driven : Bool} {t : TimerView} (h : OneShotFor n 0 t) (k : Nat) :
    OneShotFor n k ((TimerView.step (.fire driven))^[k] t) := by
  induction k with
  | zero => exact h
  | succ k ih =>
    rw [Function.iterate_succ_apply']
    exact ih.step

/-- The level of a one-shot timer: it says that the timer is disarmed where it is driven since the load, and is kept otherwise. -/
structure LevelOf (driven level : Bool) (t : TimerView) : Prop where
  fired : driven = true → t.level = !t.armed
  kept : driven = false → t.level = level

theorem LevelOf.step {driven level : Bool} {t : TimerView} (h : LevelOf driven level t) :
    LevelOf driven level (t.step (.fire driven)) := by
  obtain ⟨hfired, hkept⟩ := h
  unfold TimerView.step
  split
  · exact ⟨hfired, hkept⟩
  split
  · exact ⟨hfired, hkept⟩
  rw [TimerView.fire]
  split
  · refine ⟨fun hdriven => ?_, fun hdriven => ?_⟩
    · rw [hdriven]
      rfl
    · rw [hdriven]
      exact hkept hdriven
  · exact ⟨hfired, hkept⟩

theorem LevelOf.iterate {driven level : Bool} {t : TimerView} (h : LevelOf driven level t) (k : Nat) :
    LevelOf driven level ((TimerView.step (.fire driven))^[k] t) := by
  induction k with
  | zero => exact h
  | succ k ih =>
    rw [Function.iterate_succ_apply']
    exact ih.step

/-- A disarmed timer stays disarmed and keeps its flag and its level. -/
theorem TimerView.fire_iterate_disarmed {driven : Bool} {t : TimerView} (h : t.armed = false) (k : Nat) :
    ((TimerView.step (.fire driven))^[k] t).armed = false ∧
      ((TimerView.step (.fire driven))^[k] t).flag = t.flag ∧
      ((TimerView.step (.fire driven))^[k] t).level = t.level := by
  induction k with
  | zero => exact ⟨h, rfl, rfl⟩
  | succ k ih =>
    rw [Function.iterate_succ_apply']
    generalize (TimerView.step (.fire driven))^[k] t = u at ih ⊢
    obtain ⟨harmed, hflag, hlevel⟩ := ih
    unfold TimerView.step
    split
    · exact ⟨harmed, hflag, hlevel⟩
    split
    · exact ⟨harmed, hflag, hlevel⟩
    rw [TimerView.fire_disarmed harmed]
    exact ⟨harmed, hflag, hlevel⟩

/-- Settles O45: both timers of the chip in one-shot mode are one-shot timers, and timer 1 drives its level. -/
theorem oneShotTimersFireOnce : Obligations.OneShotTimersFireOnce := by
  refine ⟨fun v c c' ps hmode hw => ?timer1, fun v c c' ps hmode hw => ?timer2,
    fun c ps => ⟨fun hmode harmed => ?disarmed1, fun harmed => ?disarmed2⟩⟩
  case timer1 =>
    obtain rfl := viaWrite_t1 hw
    have hfire : timeout1Of (loadT1 v c) = .fire (pb7Enabled c) := if_neg (ne_true_of_eq_false hmode)
    have hshot := oneShotFor_zero (wordOf v (loByte c.t1l)) (if pb7Enabled c then false else c.pb7)
    have hlevel : LevelOf (pb7Enabled c) c.pb7 (timer1Of (loadT1 v c)) := by
      rw [timer1Of_loadT1]
      exact ⟨fun hdriven => by rw [hdriven]; rfl, fun hdriven => by rw [hdriven]; rfl⟩
    rw [← timer1Of_loadT1] at hshot
    have hshot := hshot.iterate (driven := pb7Enabled c) ps.length
    have hlevel := hlevel.iterate ps.length
    rw [← hfire, ← timer1Of_viaCycles] at hshot hlevel
    refine ⟨hshot.flag_iff, hshot.disarmed_iff, fun hdriven => ?_, hlevel.kept⟩
    have hfired := hlevel.fired hdriven
    rw [hshot.armed, Bool.not_not] at hfired
    exact (Bool.eq_iff_iff.mp hfired).trans hshot.flag_iff
  case timer2 =>
    obtain rfl := viaWrite_t2 hw
    have hshot := (timer2Of_loadT2 v c ▸ oneShotFor_zero (wordOf v c.t2l) false).iterate (driven := false) ps.length
    rw [← timer2Of_viaCycles ps (c := loadT2 v c) hmode] at hshot
    exact ⟨hshot.flag_iff, hshot.disarmed_iff⟩
  case disarmed1 =>
    have hfire : timeout1Of c = .fire (pb7Enabled c) := if_neg (ne_true_of_eq_false hmode)
    obtain ⟨-, hkept⟩ := TimerView.fire_iterate_disarmed (driven := pb7Enabled c) (t := timer1Of c) harmed ps.length
    rw [← hfire, ← timer1Of_viaCycles] at hkept
    exact hkept
  case disarmed2 =>
    cases hmode : bitOf c.acr 5 with
    | false =>
      obtain ⟨-, hflag, -⟩ := TimerView.fire_iterate_disarmed (driven := false) (t := timer2Of c) harmed ps.length
      rw [← timer2Of_viaCycles ps hmode] at hflag
      exact hflag
    | true => exact congrArg TimerView.flag (timer2Of_viaCycles_stopped ps hmode)

end Sys2Proof.Machine
end

section
/-! The obligations about the pushed flag byte (O24) and about decimal addition and subtraction (O26), and the laws of
`addDec` and `subDec` they rest on. -/

namespace Sys2Proof.Machine

/-! ## The pushed flag byte (R23) -/

theorem unpackP_packP (p : Flags) (b : Bool) : unpackP (packP p b) = p := by
  obtain ⟨n, v, d, i, z, c⟩ := p
  revert n v d i z c b
  decide

theorem packP_toNat (p : Flags) (b : Bool) : (packP p b).toNat =
    128 * p.n.toNat + 64 * p.v.toNat + 32 + 16 * b.toNat + 8 * p.d.toNat + 4 * p.i.toNat + 2 * p.z.toNat + p.c.toNat := by
  obtain ⟨n, v, d, i, z, c⟩ := p
  revert n v d i z c b
  decide

/-- Settles O24: every flag byte and every pulled byte, by their finitely many values. -/
theorem flagByteLayout : Obligations.FlagByteLayout :=
  ⟨fun p b => ⟨unpackP_packP p b, packP_toNat p b⟩, by decide⟩

/-! ## Decimal addition (R193, D6) -/

/-- The two digits of a byte are its low digit and the rest. -/
theorem highDigit_eq_sub (n : Nat) : n / 16 * 16 = n - n % 16 := by omega

section
variable (a m : Byte) (c : Bool)

/-- The sum of two bytes with its low digit corrected, from which R193 takes N and V. -/
def lowCorrectedSum : Nat :=
  let lo := a.toNat % 16 + m.toNat % 16 + c.toNat
  a.toNat - a.toNat % 16 + (m.toNat - m.toNat % 16) + (if 10 ≤ lo then (lo + 6) % 16 + 16 else lo)

/-- `addDec` in terms of the low-corrected sum. -/
theorem addDec_eq : addDec a m c =
    { result := BitVec.ofNat 8 (if 160 ≤ lowCorrectedSum a m c then lowCorrectedSum a m c + 96 else lowCorrectedSum a m c)
      c := decide (256 ≤ if 160 ≤ lowCorrectedSum a m c then lowCorrectedSum a m c + 96 else lowCorrectedSum a m c)
      v := bitOf (~~~(a ^^^ m) &&& (a ^^^ BitVec.ofNat 8 (lowCorrectedSum a m c))) 7
      n := bitOf (BitVec.ofNat 8 (lowCorrectedSum a m c)) 7
      z := (a.toNat + m.toNat + c.toNat) % 256 == 0 } := by
  simp only [addDec, lowCorrectedSum, carryNat_eq_toNat, highDigit_eq_sub] <;> rfl

theorem addDec_result_toNat : (addDec a m c).result.toNat =
    (if 160 ≤ lowCorrectedSum a m c then lowCorrectedSum a m c + 96 else lowCorrectedSum a m c) % 256 := by
  simp only [addDec_eq, BitVec.toNat_ofNat, Nat.reducePow]

theorem addDec_c_iff : (addDec a m c).c = true ↔ 160 ≤ lowCorrectedSum a m c := by
  simp only [addDec_eq, decide_eq_true_iff]
  split <;> omega

theorem addDec_n_iff : (addDec a m c).n = true ↔ 128 ≤ lowCorrectedSum a m c % 256 := by
  simp only [addDec_eq, bitOf_seven_iff, BitVec.toNat_ofNat, Nat.reducePow]

theorem addDec_v_iff : (addDec a m c).v = true ↔
    (128 ≤ a.toNat ↔ 128 ≤ m.toNat) ∧ ¬(128 ≤ a.toNat ↔ 128 ≤ lowCorrectedSum a m c % 256) := by
  rw [addDec_eq]
  refine (bitOf_overflow_iff ..).trans ?_
  simp only [bitOf_seven_iff, BitVec.toNat_ofNat, Nat.reducePow]

theorem addDec_z_iff : (addDec a m c).z = true ↔ (a.toNat + m.toNat + c.toNat) % 256 = 0 := by
  simp only [addDec_eq, beq_iff_eq]

/-! ## Decimal subtraction (R194, D6) -/

/-- The difference of two bytes with its low digit corrected. -/
def lowCorrectedDifference : Int :=
  let lo : Int := (a.toNat % 16 : Int) - m.toNat % 16 + c.toNat - 1
  (a.toNat : Int) - a.toNat % 16 - (m.toNat - m.toNat % 16) + (if lo < 0 then (lo - 6) % 16 - 16 else lo)

/-- The flags of a decimal subtraction are those of the binary one. -/
theorem subDec_eq : subDec a m c =
    { subBin a m c with
      result := BitVec.ofInt 8
        (if lowCorrectedDifference a m c < 0 then lowCorrectedDifference a m c - 96 else lowCorrectedDifference a m c) } := by
  have ha : ((a.toNat / 16 * 16 : Nat) : Int) = (a.toNat : Int) - a.toNat % 16 := by omega
  have hm : ((m.toNat / 16 * 16 : Nat) : Int) = (m.toNat : Int) - m.toNat % 16 := by omega
  simp only [subDec, lowCorrectedDifference, carryNat_eq_toNat, ha, hm, Int.natCast_mod, Nat.cast_ofNat] <;> rfl

theorem subDec_result_toNat : ((subDec a m c).result.toNat : Int) =
    (if lowCorrectedDifference a m c < 0 then lowCorrectedDifference a m c - 96 else lowCorrectedDifference a m c) % 256 := by
  simp only [subDec_eq, BitVec.toNat_ofInt]
  omega

theorem subBin_v_iff_signs : (subBin a m c).v = true ↔ ¬(128 ≤ a.toNat ↔ 128 ≤ m.toNat) ∧
    ¬(128 ≤ a.toNat ↔ 128 ≤ ((a.toNat : Int) - m.toNat - (1 - (c.toNat : Int))) % 256) := by
  have hresult := subBin_result_toNat a m c
  have hcomplement : (128 ≤ (~~~m).toNat) ↔ ¬128 ≤ m.toNat := by
    have hm := m.isLt
    rw [BitVec.toNat_not]
    omega
  have hsigns : (subBin a m c).v = true ↔ (128 ≤ a.toNat ↔ 128 ≤ (~~~m).toNat) ∧
      ¬(128 ≤ a.toNat ↔ 128 ≤ (subBin a m c).result.toNat) := by
    rw [subBin_eq_addBin_not]
    simp only [← bitOf_seven_iff]
    exact bitOf_overflow_iff a (~~~m) _
  rw [hsigns, hcomplement, ← hresult]
  omega

end

/-! ## Packed BCD (R196) -/

/-- The packed BCD of a number below 100. -/
def packedBcd (n : Nat) : Byte := BitVec.ofNat 8 (n / 10 * 16 + n % 10)

theorem packedBcd_toNat {n : Nat} (h : n < 100) : (packedBcd n).toNat = n / 10 * 16 + n % 10 := by
  rw [packedBcd, BitVec.toNat_ofNat]
  omega

theorem packedBcd_low {n : Nat} (h : n < 100) : (packedBcd n).toNat % 16 = n % 10 := by
  rw [packedBcd_toNat h]
  omega

theorem packedBcd_high {n : Nat} (h : n < 100) : (packedBcd n).toNat - (packedBcd n).toNat % 16 = n / 10 * 16 := by
  rw [packedBcd_low h, packedBcd_toNat h, Nat.add_sub_cancel]

section
variable {x y : Nat}

/-- On packed BCD the low-corrected sum has the decimal sum's low digit, and its high digit is one too large from 10 on. -/
theorem lowCorrectedSum_packedBcd (hx : x < 100) (hy : y < 100) (c : Bool) :
    lowCorrectedSum (packedBcd x) (packedBcd y) c = (x + y + c.toNat) / 10 * 16 + (x + y + c.toNat) % 10 := by
  have hc := c.toNat_le
  simp only [lowCorrectedSum]
  rw [packedBcd_high hx, packedBcd_high hy, packedBcd_low hx, packedBcd_low hy]
  split <;> omega

theorem lowCorrectedDifference_packedBcd (hx : x < 100) (hy : y < 100) (c : Bool) :
    lowCorrectedDifference (packedBcd x) (packedBcd y) c =
      ((x : Int) - y - (1 - (c.toNat : Int))) / 10 * 16 + ((x : Int) - y - (1 - (c.toNat : Int))) % 10 := by
  have hc := c.toNat_le
  have hx0 := packedBcd_low hx
  have hx1 := packedBcd_high hx
  have hy0 := packedBcd_low hy
  have hy1 := packedBcd_high hy
  simp only [lowCorrectedDifference]
  split <;> omega

/-- The high-digit correction of a sum below 200 takes 100 from it where it reaches 100. -/
theorem highCorrected_add {n : Nat} (h : n < 200) :
    (if 160 ≤ n / 10 * 16 + n % 10 then n / 10 * 16 + n % 10 + 96 else n / 10 * 16 + n % 10) % 256 =
      n % 100 / 10 * 16 + n % 100 % 10 := by
  rcases Nat.lt_or_ge n 100 with hn | hn
  · have hmod : n % 100 = n := Nat.mod_eq_of_lt hn
    rw [hmod]
    split <;> omega
  · have hmod : n % 100 = n - 100 := by omega
    rw [hmod]
    split <;> omega

/-- The high-digit correction of a difference adds 100 to it where it is negative. -/
theorem highCorrected_sub {d : Int} (hlow : -100 ≤ d) (hhigh : d < 100) :
    (if d / 10 * 16 + d % 10 < 0 then d / 10 * 16 + d % 10 - 96 else d / 10 * 16 + d % 10) % 256 =
      d % 100 / 10 * 16 + d % 100 % 10 := by
  rcases lt_or_ge d 0 with hd | hd
  · have hmod : d % 100 = d + 100 := by omega
    rw [hmod]
    split <;> omega
  · have hmod : d % 100 = d := Int.emod_eq_of_lt hd hhigh
    rw [hmod]
    split <;> omega

theorem addDec_packedBcd (hx : x < 100) (hy : y < 100) (c : Bool) :
    (addDec (packedBcd x) (packedBcd y) c).result = packedBcd ((x + y + c.toNat) % 100) ∧
      ((addDec (packedBcd x) (packedBcd y) c).c = true ↔ 100 ≤ x + y + c.toNat) := by
  have hc := c.toNat_le
  refine ⟨BitVec.eq_of_toNat_eq ?_, ?_⟩
  · rw [addDec_result_toNat, lowCorrectedSum_packedBcd hx hy, packedBcd_toNat (Nat.mod_lt _ (by decide))]
    exact highCorrected_add (by omega)
  · rw [addDec_c_iff, lowCorrectedSum_packedBcd hx hy]
    omega

theorem subDec_packedBcd (hx : x < 100) (hy : y < 100) (c : Bool) :
    (subDec (packedBcd x) (packedBcd y) c).result = packedBcd (((x : Int) - y - (1 - (c.toNat : Int))) % 100).toNat ∧
      ((subDec (packedBcd x) (packedBcd y) c).c = true ↔ 0 ≤ (x : Int) - y - (1 - (c.toNat : Int))) := by
  have hc := c.toNat_le
  refine ⟨BitVec.eq_of_toNat_eq ?_, ?_⟩
  · have hresult := subDec_result_toNat (packedBcd x) (packedBcd y) c
    rw [lowCorrectedDifference_packedBcd hx hy] at hresult
    rw [highCorrected_sub (by omega) (by omega)] at hresult
    rw [packedBcd_toNat (by omega)]
    omega
  · rw [subDec_eq]
    refine (subBin_c_iff ..).trans ?_
    rw [packedBcd_toNat hx, packedBcd_toNat hy]
    omega

end

/-- Settles O26: the laws of `addDec` and `subDec` for all bytes, and their instances on packed BCD. -/
theorem decimalArithmeticOnBcd : Obligations.DecimalArithmeticOnBcd := by
  refine ⟨fun x y c hx hy => ⟨addDec_packedBcd hx hy c, subDec_packedBcd hx hy c⟩,
    fun a m c => ⟨addDec_result_toNat a m c, addDec_c_iff a m c, addDec_n_iff a m c, addDec_v_iff a m c, addDec_z_iff a m c⟩,
    fun a m c => ⟨subDec_result_toNat a m c, ?_⟩⟩
  have hresult := subBin_result_toNat a m c
  refine ⟨subBin_c_iff a m c, ?_, ?_, subBin_v_iff_signs a m c⟩
  · exact (subBin_n_iff a m c).trans (by rw [← hresult]; omega)
  · refine (subBin_z_iff a m c).trans ?_
    rw [← BitVec.toNat_inj, ← hresult]
    exact Int.natCast_eq_zero.symm

end Sys2Proof.Machine
end

section
/-! The obligations about the video/audio chip's fetches (O54), its output units (O55), its pixels (O56) and its sound (O59). -/

namespace Sys2Proof.Machine

/-! ## Pixels (R430 to R432) -/

section
variable {c : Vic}

theorem chipPixels_outside (h : c.pixLeft = 0) :
    chipPixels c = [border c.reg, border c.reg, border c.reg, border c.reg] := by
  rw [chipPixels, h]
  rfl

theorem chipPixels_hires (hpix : c.pixLeft ≠ 0) (hmode : c.pipeColour.getLsbD 3 = false) :
    chipPixels c = [hiresPixel c ((pipeHalf c).getLsbD 3), hiresPixel c ((pipeHalf c).getLsbD 2),
      hiresPixel c ((pipeHalf c).getLsbD 1), hiresPixel c ((pipeHalf c).getLsbD 0)] := by
  rw [chipPixels, if_neg (by simpa using hpix), hmode]
  rfl

theorem chipPixels_multicolour (hpix : c.pixLeft ≠ 0) (hmode : c.pipeColour.getLsbD 3 = true) :
    chipPixels c = [multiPixel c ((pipeHalf c).extractLsb' 2 2), multiPixel c ((pipeHalf c).extractLsb' 2 2),
      multiPixel c ((pipeHalf c).extractLsb' 0 2), multiPixel c ((pipeHalf c).extractLsb' 0 2)] := by
  rw [chipPixels, if_neg (by simpa using hpix), hmode]
  rfl

theorem pipeHalf_two (h : c.pixLeft = 2) : pipeHalf c = c.pipe.extractLsb' 4 4 := by
  rw [pipeHalf, h]
  rfl

theorem pipeHalf_one (h : c.pixLeft = 1) : pipeHalf c = c.pipe.extractLsb' 0 4 := by
  rw [pipeHalf, h]
  rfl

/-- R431: a set bit is the foreground in normal video and the background in reverse video. -/
theorem hiresPixel_of (b : Bool) {colour : BitVec 4} {rF : Byte} (hcolour : c.pipeColour = colour) (hrF : c.reg.rF = rF) :
    hiresPixel c b = if b == rF.getLsbD 3 then 0#1 ++ colour.extractLsb' 0 3 else rF.extractLsb' 4 4 := by
  rw [← hcolour, ← hrF]
  rfl

/-- Settles O56: each half's four bits are known, and so are the pixels they select. -/
theorem pixelsOfTheRulesExamples : Obligations.PixelsOfTheRulesExamples := by
  have hires : ∀ (c : Vic) (rF : Byte), c.pipeColour = 0x2#4 → c.reg.rF = rF → c.pixLeft ≠ 0 →
      chipPixels c = [3, 2, 1, 0].map fun i =>
        if (pipeHalf c).getLsbD i == rF.getLsbD 3 then 2#4 else rF.extractLsb' 4 4 := by
    intro c rF hcolour hrF hpix
    rw [chipPixels_hires hpix (by rw [hcolour]; rfl)]
    simp only [hiresPixel_of _ hcolour hrF, List.map_cons, List.map_nil]
    rfl
  refine ⟨fun c hpipe => ⟨fun hcolour hrF => ⟨fun h => ?_, fun h => ?_⟩, fun hcolour hrF => ⟨fun h => ?_, fun h => ?_⟩,
    fun hcolour hborder => ⟨fun h => ?_, fun h => ?_⟩, chipPixels_outside⟩, fun c hpipe hmode => ⟨fun h => ?_, fun h => ?_⟩⟩
  · rw [hires c _ hcolour hrF (by omega), pipeHalf_two h, hpipe]
    decide
  · rw [hires c _ hcolour hrF (by omega), pipeHalf_one h, hpipe]
    decide
  · rw [hires c _ hcolour hrF (by omega), pipeHalf_two h, hpipe]
    decide
  · rw [hires c _ hcolour hrF (by omega), pipeHalf_one h, hpipe]
    decide
  · rw [chipPixels_multicolour (by omega) (by rw [hcolour]; rfl), pipeHalf_two h, hpipe]
    change [foreground c, foreground c, foreground c, foreground c] = _
    rw [foreground, hcolour]
    rfl
  · rw [chipPixels_multicolour (by omega) (by rw [hcolour]; rfl), pipeHalf_one h, hpipe]
    change [border c.reg, border c.reg, border c.reg, border c.reg] = _
    rw [hborder]
  · rw [chipPixels_multicolour (by omega) hmode, pipeHalf_two h, hpipe]
    rfl
  · rw [chipPixels_multicolour (by omega) hmode, pipeHalf_one h, hpipe]
    rfl

/-! ## Output units (R433, R434) -/

theorem length_chipPixels (c : Vic) : (chipPixels c).length = 4 := by
  unfold chipPixels
  split
  · rfl
  · simp only []
    split <;> rfl

/-- Unit `i` of a cycle shows chip pixel `i / 2`. -/
theorem pixelUnits_getElem? (c : Vic) {i : Nat} (hi : i < 8) :
    ∃ p, (chipPixels c)[i / 2]? = some p ∧ (pixelUnits c)[i]? = some (.pixel p) := by
  have hlength := length_chipPixels c
  obtain ⟨p0, p1, p2, p3, hpixels⟩ := List.length_eq_four.mp hlength
  rw [pixelUnits, hpixels]
  interval_cases i <;> exact ⟨_, rfl, rfl⟩

theorem length_pixelUnits (c : Vic) : (pixelUnits c).length = 8 := by
  obtain ⟨p0, p1, p2, p3, hpixels⟩ := List.length_eq_four.mp (length_chipPixels c)
  rw [pixelUnits, hpixels]
  rfl

theorem length_swallow (lead trail : Nat) (l : List OutUnit) : (swallow lead trail l).length = l.length :=
  List.length_mapIdx

theorem length_outputUnits (t : Timing) (c : Vic) : (outputUnits t c).length = 8 := by
  unfold outputUnits
  split
  · rfl
  split
  · rfl
  · rw [length_swallow, length_pixelUnits]

/-- R434: each kind of vertical blanking has its lines. -/
theorem verticalKind_iff (t : Timing) (v : Nat) :
    (verticalKind t v = .shortSync ↔
      v < t.vsShort1 ∨ t.vsShort1 + t.vsLong ≤ v ∧ v < t.vsShort1 + t.vsLong + t.vsShort2) ∧
    (verticalKind t v = .longSync ↔ t.vsShort1 ≤ v ∧ v < t.vsShort1 + t.vsLong) ∧
    (verticalKind t v = .vblank ↔ t.vsShort1 + t.vsLong + t.vsShort2 ≤ v) := by
  unfold verticalKind
  split
  · simp; omega
  split
  · simp; omega
  split
  · simp; omega
  · simp; omega

theorem units_of_vicCycle {cfg : Config} {m : List Host.Cell} {clock : Nat} {o : Vic × ClockOut}
    (h : vicCycle cfg m clock c = .next o) : o.2.units = outputUnits cfg.timing c := by
  rw [vicCycle_eq (fs_of_vicCycle h)] at h
  cases h
  rfl

/-- Settles O55: the three branches of the output, by the line and the cycle. -/
theorem eightUnitsPerCycle : Obligations.EightUnitsPerCycle := by
  intro cfg m clock c o h
  rw [units_of_vicCycle h]
  refine ⟨length_outputUnits .., fun hv => ⟨verticalKind cfg.timing c.v, if_pos hv, verticalKind_iff ..⟩,
    fun hv hh => ?_, fun hv hfirst hlast i hi => ?_⟩
  · rw [outputUnits, if_neg hv.not_gt, if_pos (by simpa using hh)]
    rfl
  · obtain ⟨p, hp, hunit⟩ := pixelUnits_getElem? c hi
    refine ⟨p, hp, ?_⟩
    have hinside : ¬(decide (c.h < cfg.timing.hvisFirst) || decide (cfg.timing.hvisLast < c.h)) = true := by
      simp; omega
    rw [outputUnits, if_neg hv.not_gt, if_neg hinside, swallow, List.getElem?_mapIdx, hunit, Option.map_some,
      length_pixelUnits]
    refine congrArg some (if_congr ?_ rfl rfl)
    simp only [Bool.or_eq_true, decide_eq_true_eq, beq_iff_eq]
    split <;> split <;> omega

/-! ## The screen-code column (R422, R425, R426) -/

/-- The column law speaks of the fetch state, the counter and its latch, the columns left and the registers. -/
theorem columnLaw_congr {d : Vic} (hfs : d.fs = c.fs) (hvmc : d.vmc = c.vmc) (hlatch : d.vmcLatch = c.vmcLatch)
    (hcols : d.colsLeft = c.colsLeft) (hreg : d.reg = c.reg) : ColumnLaw d ↔ ColumnLaw c := by
  unfold ColumnLaw fetchColumn
  rw [hfs, hvmc, hlatch, hcols, hreg]

theorem columnLaw_sampleStep (cfg : Config) : ColumnLaw (sampleStep cfg c).1 ↔ ColumnLaw c := by
  unfold sampleStep
  simp only []
  split <;> exact columnLaw_congr rfl rfl rfl rfl rfl

theorem columnLaw_startMatrixLine (c : Vic) : ColumnLaw (startMatrixLine c) := ⟨rfl, rfl⟩

/-- One column fewer remains, so the column is one more. -/
theorem column_succ {count left : BitVec 7} (hle : left ≤ count) (hne : left ≠ 0#7) :
    (count - (left - 1)).setWidth 12 = (count - left).setWidth 12 + 1 ∧ left - 1 ≤ count := by
  have hcount := count.isLt
  constructor
  · bv_omega
  · bv_omega

/-- A fetch keeps the column law: the column starts at zero with the counter at its latch, and then both step together. -/
theorem columnLaw_fetchCase {cfg : Config} {m : List Host.Cell} {draw : Byte} (h : ColumnLaw c) :
    ColumnLaw (fetchCase cfg m draw c) := by
  unfold fetchCase
  split
  case h_1 =>
    split
    · trivial
    · exact h
  case h_2 =>
    split
    · exact columnLaw_startMatrixLine c
    · exact h
  case h_3 =>
    split
    · trivial
    split
    · exact columnLaw_startMatrixLine c
    · exact h
  case h_4 hfs | h_5 hfs =>
    rw [ColumnLaw, hfs] at h
    exact h
  case h_6 hfs =>
    rw [ColumnLaw, hfs] at h
    obtain ⟨hvmc, hcols⟩ := h
    split
    case isTrue hleft =>
      refine ⟨?_, ?_, bne_iff_ne.mp hleft⟩
      · simp [fetchColumn, hvmc, hcols]
      · exact BitVec.le_of_eq hcols
    case isFalse => trivial
  case h_7 hfs =>
    rw [ColumnLaw, hfs] at h
    obtain ⟨hvmc, hle, hne⟩ := h
    exact ⟨congrArg (· + 1) hvmc, hle, hne⟩
  case h_8 hfs =>
    rw [ColumnLaw, hfs] at h
    obtain ⟨hvmc, hle, hne⟩ := h
    obtain ⟨hcolumn, hle'⟩ := column_succ hle hne
    split
    case isTrue hleft =>
      refine ⟨?_, hle', bne_iff_ne.mp hleft⟩
      refine hvmc.trans ?_
      rw [BitVec.add_assoc]
      exact congrArg (c.vmcLatch + ·) hcolumn.symm
    case isFalse => trivial
  case h_9 =>
    split <;> trivial
  case h_10 => exact h

/-- Settles O54: no phase of a cycle but the fetch touches what the law speaks of. -/
theorem screenCodeAddressByColumn : Obligations.ScreenCodeAddressByColumn := by
  refine ⟨fun cfg m clock c o hlaw hsync h => ?_, fun c hlaw hfs => ?_⟩
  · rw [vicCycle_eq (fs_of_vicCycle h)] at h
    cases h
    refine (columnLaw_congr rfl rfl rfl rfl rfl).mp ((columnLaw_sampleStep cfg).mpr
      ((columnLaw_congr (d := voicesStep _ _) rfl rfl rfl rfl rfl).mpr ?_))
    rw [fetchStep, if_neg (by rw [← Bool.not_eq_true] at hsync; exact hsync)]
    exact columnLaw_fetchCase ((columnLaw_congr (d := shiftPipe c) rfl rfl rfl rfl rfl).mpr hlaw)
  · rw [ColumnLaw, hfs] at hlaw
    obtain ⟨hvmc, -⟩ := hlaw
    rw [screenAddress, hvmc]

/-! ## Sound (R440, R444) -/

theorem fetchStep_sound (cfg : Config) (m : List Host.Cell) (draw : Byte) :
    (fetchStep cfg m draw c).apre = c.apre ∧ (fetchStep cfg m draw c).sacc = c.sacc ∧
      (fetchStep cfg m draw c).lfsr = c.lfsr ∧ (fetchStep cfg m draw c).voice0 = c.voice0 ∧
      (fetchStep cfg m draw c).voice1 = c.voice1 ∧ (fetchStep cfg m draw c).voice2 = c.voice2 ∧
      (fetchStep cfg m draw c).voice3 = c.voice3 := by
  have hcase : (fetchCase cfg m draw c).apre = c.apre ∧ (fetchCase cfg m draw c).sacc = c.sacc ∧
      (fetchCase cfg m draw c).lfsr = c.lfsr ∧ (fetchCase cfg m draw c).voice0 = c.voice0 ∧
      (fetchCase cfg m draw c).voice1 = c.voice1 ∧ (fetchCase cfg m draw c).voice2 = c.voice2 ∧
      (fetchCase cfg m draw c).voice3 = c.voice3 := by
    unfold fetchCase startMatrixLine
    repeat' split
    all_goals exact ⟨rfl, rfl, rfl, rfl, rfl, rfl, rfl⟩
  unfold fetchStep
  split <;> exact hcase

/-- The sound of a cycle: the voices of the chip it starts with step, and then the sample is taken. -/
theorem sound_of_vicCycle {cfg : Config} {m : List Host.Cell} {clock : Nat} {o : Vic × ClockOut}
    (h : vicCycle cfg m clock c = .next o) : ∃ d : Vic, d.reg = c.reg ∧ d.apre = c.apre ∧ d.sacc = c.sacc ∧ d.lfsr = c.lfsr ∧
      d.voice0 = c.voice0 ∧ d.voice1 = c.voice1 ∧ d.voice2 = c.voice2 ∧ d.voice3 = c.voice3 ∧
      o.1 = rasterStep cfg (sampleStep cfg (voicesStep cfg d)).1 ∧ o.2.sample = (sampleStep cfg (voicesStep cfg d)).2 := by
  rw [vicCycle_eq (fs_of_vicCycle h)] at h
  cases h
  obtain ⟨hapre, hsacc, hlfsr, h0, h1, h2, h3⟩ :=
    fetchStep_sound (c := shiftPipe c) cfg m (Config.videoAbsentRead clock)
  exact ⟨fetchStep cfg m (Config.videoAbsentRead clock) (shiftPipe c), fetchStep_reg _ _ _ (shiftPipe c),
    hapre, hsacc, hlfsr, h0, h1, h2, h3, rfl, rfl⟩

/-- The sample step touches the accumulator alone. -/
theorem sampleStep_eq (cfg : Config) (c : Vic) : (sampleStep cfg c).1 = { c with sacc :=
    if cfg.timing.clockHz ≤ c.sacc + cfg.sampleRate then c.sacc + cfg.sampleRate - cfg.timing.clockHz
    else c.sacc + cfg.sampleRate } := by
  unfold sampleStep
  simp only []
  split <;> rfl

theorem sampleStep_sample (cfg : Config) (c : Vic) : (sampleStep cfg c).2 =
    if cfg.timing.clockHz ≤ c.sacc + cfg.sampleRate then some (mixedSample cfg c) else none := by
  unfold sampleStep
  simp only []
  split <;> rfl

/-- The accumulator of a cycle, and whether it gives a sample (R444). -/
theorem sacc_of_vicCycle {cfg : Config} {m : List Host.Cell} {clock : Nat} {o : Vic × ClockOut}
    (h : vicCycle cfg m clock c = .next o) :
    (o.1.sacc = if cfg.timing.clockHz ≤ c.sacc + cfg.sampleRate then c.sacc + cfg.sampleRate - cfg.timing.clockHz
      else c.sacc + cfg.sampleRate) ∧
    o.2.sample.isSome = decide (cfg.timing.clockHz ≤ c.sacc + cfg.sampleRate) := by
  obtain ⟨d, -, -, hsacc, -, -, -, -, -, hchip, hsample⟩ := sound_of_vicCycle h
  have hvoices : (voicesStep cfg d).sacc = c.sacc := hsacc
  rw [hchip, hsample, sampleStep_eq, sampleStep_sample, hvoices]
  refine ⟨rfl, ?_⟩
  split
  case isTrue hle => exact (decide_eq_true hle).symm
  case isFalse hlt => exact (decide_eq_false hlt).symm

/-- A sample is the mix of the chip its cycle leaves. -/
theorem sample_of_vicCycle {cfg : Config} {m : List Host.Cell} {clock : Nat} {o : Vic × ClockOut} {x : Int}
    (h : vicCycle cfg m clock c = .next o) (hx : o.2.sample = some x) : x = mixedSample cfg o.1 := by
  obtain ⟨d, -, -, -, -, -, -, -, -, hchip, hsample⟩ := sound_of_vicCycle h
  rw [hchip, sampleStep_eq]
  rw [hsample, sampleStep_sample] at hx
  split at hx
  · exact (Option.some.inj hx).symm
  · cases hx

/-- The prescaler and the voices of a cycle (R440). -/
theorem voices_of_vicCycle {cfg : Config} {m : List Host.Cell} {clock : Nat} {o : Vic × ClockOut}
    (h : vicCycle cfg m clock c = .next o) :
    o.1.apre = (voicesStep cfg c).apre ∧ o.1.voice0 = (voicesStep cfg c).voice0 ∧
      o.1.voice1 = (voicesStep cfg c).voice1 ∧ o.1.voice2 = (voicesStep cfg c).voice2 ∧
      o.1.voice3 = (voicesStep cfg c).voice3 ∧ o.1.lfsr = (voicesStep cfg c).lfsr := by
  obtain ⟨d, hreg, hapre, -, hlfsr, h0, h1, h2, h3, hchip, -⟩ := sound_of_vicCycle h
  have hvoices : (voicesStep cfg d).apre = (voicesStep cfg c).apre ∧
      (voicesStep cfg d).voice0 = (voicesStep cfg c).voice0 ∧ (voicesStep cfg d).voice1 = (voicesStep cfg c).voice1 ∧
      (voicesStep cfg d).voice2 = (voicesStep cfg c).voice2 ∧ (voicesStep cfg d).voice3 = (voicesStep cfg c).voice3 ∧
      (voicesStep cfg d).lfsr = (voicesStep cfg c).lfsr := by
    simp only [voicesStep, hreg, hapre, hlfsr, h0, h1, h2, h3, and_self]
  rw [hchip, sampleStep_eq]
  exact hvoices

/-- A voice's part of the mix is its weight times its two bits (R444). -/
theorem voicePart_eq (reg : Byte) (weight : Int) (w : Voice) :
    voicePart reg weight w = (reg.toNat / 128 : Int) * (w.sr.toNat % 2) * weight := by
  have hreg : (reg.toNat / 128 : Int) = if bitOf reg 7 = true then 1 else 0 := by
    have hlt := reg.isLt
    rw [if_congr (bitOf_seven_iff reg) rfl rfl]
    split <;> omega
  have hsr : (w.sr.toNat % 2 : Int) = if bitOf w.sr 0 = true then 1 else 0 := by
    have hbit : bitOf w.sr 0 = true ↔ w.sr.toNat % 2 = 1 := by simp [bitOf, BitVec.getLsbD, Nat.testBit_zero]
    rw [if_congr hbit rfl rfl]
    split <;> omega
  rw [hreg, hsr, voicePart]
  cases bitOf reg 7 <;> cases bitOf w.sr 0 <;> simp

theorem mixedSample_eq (cfg : Config) (c : Vic) : mixedSample cfg c = (c.reg.rE.toNat % 16 : Int) *
    ((c.reg.rA.toNat / 128 : Int) * (c.voice0.sr.toNat % 2) * cfg.weight0 +
      (c.reg.rB.toNat / 128 : Int) * (c.voice1.sr.toNat % 2) * cfg.weight1 +
      (c.reg.rC.toNat / 128 : Int) * (c.voice2.sr.toNat % 2) * cfg.weight2 +
      (c.reg.rD.toNat / 128 : Int) * (c.voice3.sr.toNat % 2) * cfg.weight3) := by
  have hvolume : ((c.reg.rE.extractLsb' 0 4).toNat : Int) = c.reg.rE.toNat % 16 := by simp
  simp only [mixedSample, hvolume, voicePart_eq]

/-! ## Samples over a run (R444) -/

/-- Adding at most the divisor raises the quotient exactly where the remainders reach it. -/
theorem add_divMod {x r m : Nat} (hm : 0 < m) (hr : r ≤ m) :
    (m ≤ x % m + r → (x + r) / m = x / m + 1 ∧ (x + r) % m = x % m + r - m) ∧
      (x % m + r < m → (x + r) / m = x / m ∧ (x + r) % m = x % m + r) := by
  have hx := Nat.mod_add_div x m
  have hlt := Nat.mod_lt x hm
  exact ⟨fun h => (Nat.div_mod_unique hm).mpr ⟨by rw [Nat.mul_succ]; omega, by omega⟩,
    fun h => (Nat.div_mod_unique hm).mpr ⟨by omega, h⟩⟩

/-- Over a run the samples count how often the clocks' sum of rates passed the clock rate, and the accumulator is the rest. -/
theorem samples_of_runCycles {n : Nat} {s t : State} (hseq : SequenceRuns s)
    (hsacc : s.vic.sacc < s.cfg.timing.clockHz) (hrate : s.cfg.sampleRate ≤ s.cfg.timing.clockHz)
    (h : runCycles n s = .next t) :
    ((t.sink.take n).filter fun o => o.sample.isSome).length =
        (s.vic.sacc + n * s.cfg.sampleRate) / s.cfg.timing.clockHz ∧
      t.vic.sacc = (s.vic.sacc + n * s.cfg.sampleRate) % s.cfg.timing.clockHz := by
  induction n generalizing t with
  | zero =>
    cases h
    rw [Nat.zero_mul, Nat.add_zero, Nat.div_eq_of_lt hsacc, Nat.mod_eq_of_lt hsacc]
    exact ⟨rfl, rfl⟩
  | succ n ih =>
    obtain ⟨u, hu, ht⟩ := runCycles_succ_eq_next h
    obtain ⟨hcount, hrest⟩ := ih hu
    obtain ⟨hruns, hcfg, -⟩ := runCycles_raster hseq hu
    obtain ⟨-, c, out, hran⟩ := stepCycle_video hruns ht
    obtain ⟨g, hvic⟩ := hran.vic
    obtain ⟨hacc, hsample⟩ := sacc_of_vicCycle hran.cycle
    have hacc : t.vic.sacc = _ := (congrArg Vic.sacc hvic).trans hacc
    obtain ⟨hpass, hstay⟩ := add_divMod (x := s.vic.sacc + n * s.cfg.sampleRate) (Nat.zero_lt_of_lt hsacc) hrate
    rw [hran.sink, List.take_succ_cons, List.filter_cons, hsample, hacc, hcfg, hrest, Nat.succ_mul, ← Nat.add_assoc]
    by_cases hle : s.cfg.timing.clockHz ≤
        (s.vic.sacc + n * s.cfg.sampleRate) % s.cfg.timing.clockHz + s.cfg.sampleRate
    · obtain ⟨hdiv, hmod⟩ := hpass hle
      rw [if_pos (decide_eq_true hle), if_pos hle, List.length_cons, hcount, hdiv, hmod]
      exact ⟨rfl, rfl⟩
    · obtain ⟨hdiv, hmod⟩ := hstay (Nat.lt_of_not_le hle)
      rw [if_neg (by simpa using hle), if_neg hle, hcount, hdiv, hmod]
      exact ⟨rfl, rfl⟩

/-- Settles O59: the samples of a run, and the sound of one cycle. -/
theorem audioSamples : Obligations.AudioSamples := by
  refine ⟨fun n s t hinv hrate h => samples_of_runCycles hinv.seq (hinv.vic.sacc hrate) hrate h, fun cfg c hvolume => ?silent,
    fun cfg m clock c o x h hx => sample_of_vicCycle h hx, fun cfg m clock c o h => ?voices, mixedSample_eq⟩
  case silent =>
    rw [mixedSample, hvolume]
    exact Int.zero_mul _
  case voices =>
    obtain ⟨hapre, h0, h1, h2, h3, hlfsr⟩ := voices_of_vicCycle h
    refine ⟨hapre, h0.trans (if_congr beq_iff_eq rfl rfl), h1.trans (if_congr beq_iff_eq rfl rfl),
      h2.trans (if_congr beq_iff_eq rfl rfl), ?_⟩
    rw [h3, hlfsr]
    exact if_congr beq_iff_eq rfl rfl

end

end Sys2Proof.Machine
end

section
/-! The obligation about the fetch of an instruction (O30): the fetch clocks one by one, and the instruction their bytes
decode to. -/

namespace Sys2Proof.Machine

/-! ## Fetch clocks (R84, R121) -/

/-- What `n` fetches from `PC` on in RAM or ROM leave: `PC` past them, and in the latch the last byte with `latch_on_fetch`. -/
structure Fetched (n : Nat) (s u : State) : Prop where
  regs : u.regs = { s.regs with pc := s.regs.pc + BitVec.ofNat 16 n }
  latchOff : s.cfg.latchOnFetch = false → u.latch = s.latch
  latchOn : s.cfg.latchOnFetch = true → 0 < n → u.latch = cell s.mem (s.regs.pc + BitVec.ofNat 16 (n - 1))
  quiet : Quiet n s u

theorem Fetched.zero {s : State} (h : Ready s) : Fetched 0 s s :=
  ⟨by rw [show (BitVec.ofNat 16 0 : Word) = 0#16 from rfl, BitVec.add_zero], fun _ => rfl, fun _ h => absurd h (by omega),
    .refl h⟩

theorem Fetched.latch {n : Nat} {s u : State} (h : Fetched n s u) (hn : 0 < n) : u.latch =
    if s.cfg.latchOnFetch then cell s.mem (s.regs.pc + BitVec.ofNat 16 (n - 1)) else s.latch := by
  split
  case isTrue hon => exact h.latchOn hon hn
  case isFalse hoff => exact h.latchOff (eq_false_of_ne_true hoff)

/-- One more fetch: it gives the cell's byte. -/
theorem Fetched.fetchByte {n : Nat} {s u : State} (h : Fetched n s u)
    (hmem : isMemory s.cfg (s.regs.pc + BitVec.ofNat 16 n) = true) :
    ∃ w, fetchByte u = .next (cell s.mem (s.regs.pc + BitVec.ofNat 16 n), w) ∧ Fetched (n + 1) s w := by
  have hpc : u.regs.pc = s.regs.pc + BitVec.ofNat 16 n := congrArg Regs.pc h.regs
  rw [← hpc, ← h.quiet.cfg] at hmem
  obtain ⟨v, w, hclock, hbyte, hregs, hlatch, hquiet⟩ := clock_fetch h.quiet.ready (accessible_of_isMemory hmem)
  have hv : v = cell s.mem (s.regs.pc + BitVec.ofNat 16 n) := by rw [hbyte.cell hmem, h.quiet.mem, hpc]
  have hlatch := hlatch hmem
  rw [h.quiet.cfg, h.quiet.mem, hpc] at hlatch
  refine ⟨w.withRegs (advance u.regs), by rw [fetchByte_of_clock hclock, hv], ?_, fun hoff => ?_, fun hon _ => ?_,
    quiet_withRegs (h.quiet.trans hquiet) _⟩
  · have hnext : s.regs.pc + BitVec.ofNat 16 n + 1 = s.regs.pc + BitVec.ofNat 16 (n + 1) := by
      rw [BitVec.add_assoc]
      exact congrArg (s.regs.pc + ·) (by simp [BitVec.ofNat_add])
    rw [State.withRegs_regs, advance, h.regs, hnext]
  · exact (hlatch.trans (by rw [hoff]; rfl)).trans (h.latchOff hoff)
  · exact hlatch.trans (by rw [hon]; rfl)

/-! ## The instruction fetched (R121, R528) -/

/-- Bytes that begin with an encoding decode to its instruction. -/
theorem decodeBytes_of_encode {i : Instr} {op b1 b2 : Byte} {rest : List Byte} (h : encode i ++ rest = [op, b1, b2]) :
    decodeBytes op b1 b2 = some i := by
  rw [decodeBytes, ← h, decode_encode]

theorem operandCount_of_row {op : Byte} {row : OpcodeRow} {args : List Byte} (hrow : findRow op = some row)
    (hargs : args.length = row.mode.operands) : operandCount op = some args.length := by
  rw [operandCount, hrow, Option.map_some, hargs]

theorem operandCount_jsr : operandCount jsrOpcode = some 2 := by decide

/-- The fetch of an instruction whose bytes stand at `PC`: as many fetches as its length, but for `JSR`, whose last byte is only
looked at. -/
theorem fetchInstr_of_instrAtPc {s : State} {i : Instr} (hready : Ready s) (hat : InstrAtPc i s) :
    ∃ u, fetchInstr s = .next (i, u) ∧ Fetched (fetchClocks i) s u ∧ 0 < fetchClocks i := by
  obtain ⟨op, args, row, hcode, hrow, hargs, -⟩ := exists_row i
  have hcount := operandCount_of_row hrow hargs
  rw [fetchClocks_of_encode hcode]
  rw [InstrAtPc, hcode] at hat
  obtain ⟨hmem0, hop⟩ := hat 0 op rfl
  obtain ⟨u0, hfetch0, h0⟩ := (Fetched.zero hready).fetchByte hmem0
  rw [hop] at hfetch0
  match args with
  | [] =>
    have hnot : op ≠ jsrOpcode := fun h => by rw [h, operandCount_jsr] at hcount; cases hcount
    have hdecode : decodeBytes op 0 0 = some i := decodeBytes_of_encode (rest := [0, 0]) (by rw [hcode]; rfl)
    refine ⟨u0, ?_, by rw [if_neg hnot]; exact h0, by rw [if_neg hnot]; exact Nat.succ_pos _⟩
    simp only [fetchInstr, hfetch0, andThen_next, hcount, List.length_nil, decodedInstr, hdecode]
  | [b1] =>
    have hnot : op ≠ jsrOpcode := fun h => by rw [h, operandCount_jsr] at hcount; cases hcount
    have hdecode : decodeBytes op b1 0 = some i := decodeBytes_of_encode (rest := [0]) (by rw [hcode]; rfl)
    obtain ⟨hmem1, hb1⟩ := hat 1 b1 rfl
    obtain ⟨u1, hfetch1, h1⟩ := h0.fetchByte hmem1
    rw [hb1] at hfetch1
    refine ⟨u1, ?_, by rw [if_neg hnot]; exact h1, by rw [if_neg hnot]; exact Nat.succ_pos _⟩
    simp only [fetchInstr, hfetch0, andThen_next, hcount, List.length_singleton, hfetch1, decodedInstr, hdecode]
  | [b1, b2] =>
    have hdecode : decodeBytes op b1 b2 = some i := decodeBytes_of_encode (rest := []) (by rw [hcode]; rfl)
    obtain ⟨hmem1, hb1⟩ := hat 1 b1 rfl
    obtain ⟨u1, hfetch1, h1⟩ := h0.fetchByte hmem1
    obtain ⟨hmem2, hb2⟩ := hat 2 b2 rfl
    rw [hb1] at hfetch1
    by_cases hjsr : op = jsrOpcode
    · have hlooked : cell u1.mem u1.regs.pc = b2 := by rw [h1.quiet.mem, h1.regs]; exact hb2
      refine ⟨u1, ?_, by rw [if_pos hjsr]; exact h1, by rw [if_pos hjsr]; exact Nat.succ_pos _⟩
      simp only [fetchInstr, hfetch0, andThen_next, hcount, List.length_cons, List.length_nil, hfetch1,
        beq_iff_eq.mpr hjsr, if_true, hlooked, decodedInstr, hdecode]
    · obtain ⟨u2, hfetch2, h2⟩ := h1.fetchByte hmem2
      rw [hb2] at hfetch2
      refine ⟨u2, ?_, by rw [if_neg hjsr]; exact h2, by rw [if_neg hjsr]; exact Nat.succ_pos _⟩
      simp only [fetchInstr, hfetch0, andThen_next, hcount, List.length_cons, List.length_nil, hfetch1, beq_iff_eq, hjsr,
        if_false, hfetch2, decodedInstr, hdecode]
  | _ :: _ :: _ :: _ => cases hmode : row.mode <;> simp [hmode, Mode.operands] at hargs

/-- Settles O30: the step fetches the instruction at `PC` and runs it. -/
theorem stepRunsTheDecodedInstruction : Obligations.StepRunsTheDecodedInstruction := by
  intro s i hboundary hready hat
  obtain ⟨u, hfetch, hfetched, hpos⟩ := fetchInstr_of_instrAtPc hready hat
  refine ⟨u, by rw [step_of_atInstruction hboundary, hfetch, andThen_next], hfetched.regs, hfetched.quiet.mem,
    hfetched.latch hpos, hfetched.quiet.ready, hfetched.quiet.chips, hfetched.quiet.kept⟩

end Sys2Proof.Machine
end

section
/-! The obligations about reset (O32, O37, O38) and about the memory `init` builds (O40). -/

namespace Sys2Proof.Machine

/-! ## The state after `reset()` (R478, R500) -/

/-- A host call that goes on was made after `init`. -/
theorem hostCall_eq_next {k : State → State} {s u : State} (h : hostCall k s = .next u) :
    s.run ≠ .uninitialized ∧ u = k s := by
  unfold hostCall at h
  split at h
  case h_1 => cases h
  case h_2 hrun =>
    cases h
    exact ⟨hrun, rfl⟩

theorem hostReset_eq_next {d : ResetDraw} {s u : State} (h : hostReset d s = .next u) :
    s.run ≠ .uninitialized ∧ u = resetState d s := hostCall_eq_next h

/-- R370: a timer chip after reset, whatever the draws. -/
theorem viaReset_values (d : ViaDraw) (pins : PortInputs) :
    let c := viaReset d pins
    c.ora = 0#8 ∧ c.orb = 0#8 ∧ c.ddra = 0#8 ∧ c.ddrb = 0#8 ∧ c.acr = 0#8 ∧ c.pcr = 0#8 ∧ c.ifr = 0#7 ∧ c.ier = 0#7 ∧
      irqOut c = false ∧ c.ca2Out = false ∧ c.cb2Out = false ∧ c.t1Loaded = false ∧ c.t2Loaded = false := by
  have hirq : irqOut (viaReset d pins) = false := by
    change ((0#7 &&& 0#7) != 0#7) = false
    decide
  exact ⟨rfl, rfl, rfl, rfl, rfl, rfl, rfl, rfl, hirq, rfl, rfl, rfl, rfl⟩

/-- Settles O38: each field of the state `reset()` builds. -/
theorem resetValues : Obligations.ResetValues := by
  intro d s u h
  obtain ⟨-, rfl⟩ := hostReset_eq_next h
  refine ⟨rfl, rfl, rfl, rfl, ?_, ⟨rfl, rfl, rfl, rfl⟩, ⟨rfl, rfl, rfl, rfl⟩, rfl, rfl, rfl, rfl, rfl, rfl, rfl, rfl, rfl, rfl,
    rfl, rfl, rfl, rfl, rfl, rfl, ?_, rfl, rfl⟩
  · rintro c (rfl | rfl)
    · exact viaReset_values d.viaA s.inp.a
    · exact viaReset_values d.viaB s.inp.b
  · rintro w (rfl | rfl | rfl | rfl) <;> rfl

/-- The video/audio chip after reset lies where the rules put it, for a well-formed configuration. -/
theorem resetWith_legal {cfg : Config} (hcfg : cfg.wf = true) (g : VicRegs) :
    (Vic.resetWith g cfg.lfsrReset).Legal cfg := by
  simp only [Config.wf, Timing.wf, Timing.cyclesFit, Config.visibleFits, Config.voiceUnitPositive,
    Config.sampleRatioPositive, Config.lfsrNonzero, Bool.and_eq_true, decide_eq_true_eq, bne_iff_ne] at hcfg
  obtain ⟨⟨⟨⟨⟨⟨-, -, hline⟩, -⟩, hlines⟩, hunit⟩, -, hclock⟩, hlfsr⟩ := hcfg
  exact {
    h := Nat.zero_lt_of_lt hline
    v := Nat.zero_lt_of_lt hlines
    vPend := fun h => absurd h Bool.false_ne_true
    fs := nofun
    columns := by rintro (h | h) <;> cases h
    rows := fun h => absurd rfl h
    apre := Nat.mul_pos (by decide) hunit
    sacc := fun _ => hclock
    lfsr := hlfsr }

/-- Settles O32: the configuration at reset is well formed, and the rest is as a reset leaves it. -/
theorem resetMeetsTheInvariant : Obligations.ResetMeetsTheInvariant where
  cfg := by decide
  mem := rfl
  colour := fun _ _ => BitVec.zero_and
  viaA := ⟨rfl, rfl⟩
  viaB := ⟨rfl, rfl⟩
  vic := resetWith_legal (by decide) _
  seq := by
    rintro f ⟨⟩
    exact hasCycle_seqMicro .reset Regs.atReset

/-! ## The reset sequence (R500) -/

/-- The machine after the first `k` cycles of a reset sequence that began in `u`. -/
structure Resetting (u : State) (r : Regs) (k : Nat) (w : State) : Prop where
  run : w.run = u.run
  seq : w.seq = some ⟨.reset, r, List.replicate k ⟨0#8, false⟩⟩
  latch : w.latch = u.latch
  mem : w.mem = u.mem
  ready : Ready w
  chips : ChipsKept u w

/-- Each of the five silent cycles is followed by another cycle. -/
theorem inFlightMicro_silent (r : Regs) {k : Nat} (hk : k < 5) :
    ∃ next r' b act next', inFlightMicro ⟨.reset, r, List.replicate k ⟨0#8, false⟩⟩ = .cycle r .none .keep next ∧
      next ⟨0#8, false⟩ = .cycle r' b act next' := by
  interval_cases k <;> exact ⟨_, _, _, _, _, rfl, rfl⟩

theorem Resetting.stepCycle {u w : State} {r : Regs} {k : Nat} (hrun : u.run ≠ .uninitialized) (h : Resetting u r k w)
    (hk : k < 5) : ∃ v, stepCycle w = .next v ∧ Resetting u r (k + 1) v := by
  obtain ⟨next, r', b, act, next', hcycle, hnext⟩ := inFlightMicro_silent r hk
  have hcurrent : currentSequence w = ⟨.reset, r, List.replicate k ⟨0#8, false⟩⟩ := by
    rw [currentSequence, h.seq, Option.getD_some]
  obtain ⟨x, hclock, -, hlatch, hquiet⟩ := clock_none (s := w.withRegs r) h.ready
  have hstep := stepCycle_of_cycle (h.run ▸ hrun) (hcurrent ▸ hcycle)
  rw [hclock, andThen_next, hnext, hcurrent] at hstep
  refine ⟨_, hstep, (hquiet.kept.ran.run.trans h.run : x.run = u.run), ?_, hlatch.trans h.latch, hquiet.mem.trans h.mem,
    hquiet.ready, ⟨hquiet.chips.vicRegs.trans h.chips.vicRegs, hquiet.chips.viaA.trans h.chips.viaA,
      hquiet.chips.viaB.trans h.chips.viaB⟩⟩
  rw [List.replicate_succ']
  rfl

theorem resetting_of_runCycles {u : State} {r : Regs} (hrun : u.run ≠ .uninitialized) (h : Resetting u r 0 u) :
    ∀ k, k ≤ 5 → ∃ w, runCycles k u = .next w ∧ Resetting u r k w := by
  intro k
  induction k with
  | zero => exact fun _ => ⟨u, rfl, h⟩
  | succ k ih =>
    intro hk
    obtain ⟨w, hw, hreset⟩ := ih (by omega)
    obtain ⟨v, hv, hnext⟩ := hreset.stepCycle hrun (by omega)
    exact ⟨v, by rw [runCycles_add, hw, andThen_next, runCycles_one, hv], hnext⟩

/-- A silent cycle of a script. -/
theorem runMicro_silent {s : State} (h : Ready s) (r : Regs) :
    ∃ t, (∀ m, runMicro (.cycle r .none .keep fun _ => m) s = runMicro m t) ∧ Quiet 1 s t := by
  obtain ⟨t, hclock, -, -, hquiet⟩ := clock_none (s := s.withRegs r) h
  exact ⟨t, fun m => by rw [runMicro_cycle, hclock, andThen_next], quiet_of_withRegs hquiet⟩

/-- The whole reset sequence: five silent cycles, then PC from `$FFFC` and I set. -/
theorem runMicro_resetMicro {s : State} (h : Ready s) (r : Regs) :
    ∃ t, runMicro (resetMicro r) s = .next (t.withRegs { maskIrq r with pc := vectorWord s 0xFFFC#16 }) ∧ Quiet 7 s t := by
  obtain ⟨t1, h1, q1⟩ := runMicro_silent h r
  obtain ⟨t2, h2, q2⟩ := runMicro_silent q1.ready r
  obtain ⟨t3, h3, q3⟩ := runMicro_silent q2.ready r
  obtain ⟨t4, h4, q4⟩ := runMicro_silent q3.ready r
  obtain ⟨t5, h5, q5⟩ := runMicro_silent q4.ready r
  obtain ⟨t, hvector, q⟩ := runMicro_loadVector q5.ready r (vector := resetVector) (by decide) (by decide)
  have hsilent := (((q1.trans q2).trans q3).trans q4).trans q5
  refine ⟨t, ?_, hsilent.trans q⟩
  rw [resetMicro, h1, h2, h3, h4, h5, hvector, vectorWord_of_mem hsilent.mem]
  rfl

/-- Settles O37: the silent cycles as calls of `step_cycle()`, and the step as the run of the whole sequence. -/
theorem resetSequence : Obligations.ResetSequence := by
  intro d s u h
  obtain ⟨hinit, rfl⟩ := hostReset_eq_next h
  have hready : Ready (resetState d s) := nofun
  have hrun : (resetState d s).run ≠ .uninitialized := hinit
  have hbegin : Resetting (resetState d s) (drawnRegs d.cpu s.regs) 0 (resetState d s) :=
    ⟨rfl, rfl, rfl, rfl, hready, .refl _⟩
  obtain ⟨w, hw, hsilent⟩ := resetting_of_runCycles hrun hbegin 5 (Nat.le_refl 5)
  obtain ⟨t, ht, hquiet⟩ := runMicro_resetMicro (s := (resetState d s).withSeq none) hready (drawnRegs d.cpu s.regs)
  refine ⟨rfl, rfl, ⟨w, hw, hsilent.latch, fun b => by rw [hsilent.mem], hsilent.chips⟩, _,
    (step_eq_runMicro hrun).trans ht, hquiet.kept.ran.seq, rfl, fun b => congrArg (cell · b) hquiet.mem,
    ⟨hquiet.chips.vicRegs, hquiet.chips.viaA, hquiet.chips.viaB⟩, hquiet.kept.ran.clock⟩

/-! ## Loading a block of bytes (R475) -/

/-- A load leaves the addresses outside its block. -/
theorem memGet_memLoad_outside : ∀ (l : List Byte) {m : List Host.Cell} {a b : Nat}, Memory.wf m = true →
    a + l.length ≤ 65536 → b < a ∨ a + l.length ≤ b → memGet (memLoad m a l) b = memGet m b
  | [], _, _, _, _, _, _ => rfl
  | v :: rest, m, a, b, hm, ha, hb => by
    rw [List.length_cons] at ha hb
    have hwf : Memory.wf (memPut m a v) = true := Memory.wf_memPut hm v (by omega)
    rw [memLoad, memGet_memLoad_outside rest hwf (by omega) (by omega), memGet_memPut hm, if_neg (by omega)]

/-- A load puts byte `k` of its block at its address plus `k`. -/
theorem memGet_memLoad : ∀ (l : List Byte) {m : List Host.Cell} {a k : Nat} {v : Byte}, Memory.wf m = true →
    a + l.length ≤ 65536 → l[k]? = some v → memGet (memLoad m a l) (a + k) = v
  | [], _, _, _, _, _, _, hk => by cases hk
  | x :: rest, m, a, k, v, hm, ha, hk => by
    rw [List.length_cons] at ha
    have hwf : Memory.wf (memPut m a x) = true := Memory.wf_memPut hm x (by omega)
    cases k with
    | zero =>
      obtain rfl : x = v := Option.some.inj hk
      rw [memLoad, memGet_memLoad_outside rest hwf (by omega) (by omega), memGet_memPut hm, Nat.add_zero, if_pos rfl]
    | succ k =>
      rw [memLoad, show a + (k + 1) = a + 1 + k by omega]
      exact memGet_memLoad rest hwf (by omega) hk

/-- The host's initial contents keep the canonical form. -/
theorem Memory.wf_placeCells (cfg : Config) (cells : List Host.Cell) {m : List Host.Cell} (h : Memory.wf m = true) :
    Memory.wf (placeCells cfg m cells) = true := by
  induction cells generalizing m with
  | nil => exact h
  | cons c rest ih =>
    rw [placeCells]
    split
    · exact ih (Memory.wf_storeByte h _ _)
    · exact ih h

/-! ## The memory `init` builds (R475) -/

section
variable {cfg : Config} {q : InitRequest} {chars basic kernel : List Byte}

/-- The memory before a cartridge image is placed. -/
def romMemory (cfg : Config) (q : InitRequest) (chars basic kernel : List Byte) : List Host.Cell :=
  memLoad (memLoad (memLoad (placeCells cfg [] q.ram) 0x8000 chars) 0xC000 basic) 0xE000 kernel

theorem initMemory_of_cartridge (h : cfg.programType = .cartridge) :
    initMemory cfg q chars basic kernel = memLoad (romMemory cfg q chars basic kernel) 0xA000 (cartridgeImage q) :=
  if_pos (beq_iff_eq.mpr h)

theorem initMemory_of_not_cartridge (h : cfg.programType ≠ .cartridge) :
    initMemory cfg q chars basic kernel = romMemory cfg q chars basic kernel :=
  if_neg fun hbeq => h (beq_iff_eq.mp hbeq)

theorem length_cartridgeImage (q : InitRequest) : (cartridgeImage q).length ≤ 0x2000 := List.length_take_le ..

theorem cartridgeImage_getElem? {k : Nat} (hk : k < 0x2000) : (cartridgeImage q)[k]? = q.cartridge[k]? :=
  List.getElem?_take_of_lt hk

section
variable (hchars : chars.length = 0x1000) (hbasic : basic.length = 0x2000) (hkernel : kernel.length = 0x2000)
include hchars hbasic hkernel

/-- The memory with the ROM images is in canonical form, and each image stands at its place. -/
theorem romMemory_spec : Memory.wf (romMemory cfg q chars basic kernel) = true ∧
    (∀ k v, chars[k]? = some v → memGet (romMemory cfg q chars basic kernel) (0x8000 + k) = v) ∧
    (∀ k v, basic[k]? = some v → memGet (romMemory cfg q chars basic kernel) (0xC000 + k) = v) ∧
    (∀ k v, kernel[k]? = some v → memGet (romMemory cfg q chars basic kernel) (0xE000 + k) = v) := by
  have h0 : Memory.wf (placeCells cfg [] q.ram) = true := Memory.wf_placeCells cfg q.ram Memory.wf_nil
  have h1 := Memory.wf_memLoad chars _ 0x8000 h0 (by omega)
  have h2 := Memory.wf_memLoad basic _ 0xC000 h1 (by omega)
  refine ⟨Memory.wf_memLoad kernel _ 0xE000 h2 (by omega), fun k v hk => ?_, fun k v hk => ?_, fun k v hk => ?_⟩
  · obtain ⟨hlt, -⟩ := List.getElem?_eq_some_iff.mp hk
    rw [romMemory, memGet_memLoad_outside kernel h2 (by omega) (by omega),
      memGet_memLoad_outside basic h1 (by omega) (by omega), memGet_memLoad chars h0 (by omega) hk]
  · obtain ⟨hlt, -⟩ := List.getElem?_eq_some_iff.mp hk
    rw [romMemory, memGet_memLoad_outside kernel h2 (by omega) (by omega), memGet_memLoad basic h1 (by omega) hk]
  · exact memGet_memLoad kernel h2 (by omega) hk

/-- A cartridge image changes no byte outside its window. -/
theorem initMemory_outside {b : Nat} (hb : b < 0xA000 ∨ 0xC000 ≤ b) :
    memGet (initMemory cfg q chars basic kernel) b = memGet (romMemory cfg q chars basic kernel) b := by
  have himage := length_cartridgeImage q
  obtain ⟨hwf, -⟩ := romMemory_spec (cfg := cfg) (q := q) hchars hbasic hkernel
  by_cases h : cfg.programType = .cartridge
  · rw [initMemory_of_cartridge h, memGet_memLoad_outside _ hwf (by omega) (by omega)]
  · rw [initMemory_of_not_cartridge h]

theorem Memory.wf_initMemory : Memory.wf (initMemory cfg q chars basic kernel) = true := by
  have himage := length_cartridgeImage q
  obtain ⟨hwf, -⟩ := romMemory_spec (cfg := cfg) (q := q) hchars hbasic hkernel
  by_cases h : cfg.programType = .cartridge
  · rw [initMemory_of_cartridge h]
    exact Memory.wf_memLoad _ _ _ hwf (by omega)
  · rw [initMemory_of_not_cartridge h]
    exact hwf

/-- The image of a cartridge machine stands in its window. -/
theorem initMemory_image (h : cfg.programType = .cartridge) {k : Nat} {v : Byte} (hk : (cartridgeImage q)[k]? = some v) :
    memGet (initMemory cfg q chars basic kernel) (0xA000 + k) = v := by
  have himage := length_cartridgeImage q
  obtain ⟨hwf, -⟩ := romMemory_spec (cfg := cfg) (q := q) hchars hbasic hkernel
  rw [initMemory_of_cartridge h]
  exact memGet_memLoad _ hwf (by omega) hk

end

/-! ## The cartridge window (R90, D20) -/

/-- What stands in `$A000-$BFFF`. -/
theorem region_cartridgeWindow {a : Word} (hlow : 0xA000 ≤ a.toNat) (hhigh : a.toNat < 0xC000) :
    region cfg a = block5 cfg a := by
  unfold region
  simp only []
  repeat rw [if_neg (by omega)]
  rw [if_pos hhigh]

/-- A cell of the window is ROM exactly where a cartridge image covers it. -/
theorem region_cartridgeWindow_eq_rom_iff {a : Word} (hlow : 0xA000 ≤ a.toNat) (hhigh : a.toNat < 0xC000) :
    region cfg a = .rom ↔ cfg.programType = .cartridge ∧ a.toNat < 0xA000 + cfg.cartridgeSize := by
  have hat : cartridgeAt cfg a = true ↔ cfg.programType = .cartridge ∧ a.toNat < 0xA000 + cfg.cartridgeSize := by
    rw [cartridgeAt, Bool.and_eq_true, beq_iff_eq, decide_eq_true_iff]
  rw [region_cartridgeWindow hlow hhigh, ← hat, block5]
  split
  case isTrue h => exact iff_of_true rfl h
  case isFalse h =>
    refine iff_of_false ?_ h
    cases hasBlock5 cfg.expansion <;> exact nofun

/-- The configuration of a cold start with the expansion `e`. -/
def coldConfig (q : InitRequest) (e : Expansion) : Config :=
  { q.cfg with expansion := e, cartridgeSize := (cartridgeImage q).length }

theorem coldStart_cfg (e : Expansion) : (coldStart q e chars basic kernel).cfg = coldConfig q e := rfl

theorem coldStart_mem (e : Expansion) :
    (coldStart q e chars basic kernel).mem = initMemory (coldConfig q e) q chars basic kernel := rfl

/-- A request without a snapshot on which `init` succeeds starts cold, with whole ROM buffers. -/
theorem coldStart_of_initMachine {s : State} (hsnap : q.snapshot = none) (hchars : q.charRom = some chars)
    (hbasic : q.basicRom = some basic) (hkernel : q.kernelRom = some kernel) (h : initMachine q = .next s) :
    (chars.length = 0x1000 ∧ basic.length = 0x2000 ∧ kernel.length = 0x2000) ∧
      ∃ e, s = coldStart q e chars basic kernel := by
  have hwhole : ∀ {n : Nat} {b : Option (List Byte)} {l : List Byte}, b = some l → l.length ≠ n → wholeBuffer n b = none :=
    fun hb hl => wholeBuffer_eq_none fun l' hb' => Option.some.inj (hb.symm.trans hb') ▸ hl
  cases he : resolveSize q with
  | error f =>
    rw [initMachine_of_error he] at h
    cases h
  | ok e =>
    have hlengths : chars.length = 0x1000 ∧ basic.length = 0x2000 ∧ kernel.length = 0x2000 := by
      by_contra hne
      have hmissing : wholeBuffer 0x1000 q.charRom = none ∨ wholeBuffer 0x2000 q.basicRom = none ∨
          wholeBuffer 0x2000 q.kernelRom = none := by
        by_cases hc : chars.length = 0x1000
        · by_cases hb : basic.length = 0x2000
          · exact .inr (.inr (hwhole hkernel fun hk => hne ⟨hc, hb, hk⟩))
          · exact .inr (.inl (hwhole hbasic hb))
        · exact .inl (hwhole hchars hc)
      rw [initMachine_missingRom he hmissing] at h
      cases h
    obtain ⟨hc, hb, hk⟩ := hlengths
    rw [initMachine_of_roms he (wholeBuffer_of_length hchars hc) (wholeBuffer_of_length hbasic hb)
      (wholeBuffer_of_length hkernel hk), startState_cold hsnap] at h
    cases h
    exact ⟨⟨hc, hb, hk⟩, e, rfl⟩

end

/-- An address of a block given by its index. -/
theorem toNat_add_ofNat {a : Word} {k : Nat} (h : a.toNat + k < 65536) : (a + BitVec.ofNat 16 k).toNat = a.toNat + k := by
  rw [BitVec.toNat_add, BitVec.toNat_ofNat]
  omega

/-- Settles O40: the cold start's memory holds each image at its place, and its configuration the image's size. -/
theorem initPlacesTheRoms : Obligations.InitPlacesTheRoms := by
  intro q s chars basic kernel hsnap hcharRom hbasicRom hkernelRom hinit
  obtain ⟨⟨hchars, hbasic, hkernel⟩, e, rfl⟩ := coldStart_of_initMachine hsnap hcharRom hbasicRom hkernelRom hinit
  rw [coldStart_cfg, coldStart_mem]
  obtain ⟨-, hc, hb, hk⟩ := romMemory_spec (cfg := coldConfig q e) (q := q) hchars hbasic hkernel
  have houtside : ∀ {l : List Byte} {a : Word} {k : Nat} {v : Byte}, a.toNat + l.length ≤ 65536 → l[k]? = some v →
      (a.toNat + l.length ≤ 0xA000 ∨ 0xC000 ≤ a.toNat) →
      cell (initMemory (coldConfig q e) q chars basic kernel) (a + BitVec.ofNat 16 k) =
        memGet (romMemory (coldConfig q e) q chars basic kernel) (a.toNat + k) := by
    intro l a k v hend hkv hplace
    obtain ⟨hlt, -⟩ := List.getElem?_eq_some_iff.mp hkv
    rw [cell, toNat_add_ofNat (by omega)]
    exact initMemory_outside hchars hbasic hkernel (by omega)
  refine ⟨Memory.wf_initMemory hchars hbasic hkernel,
    fun k v hkv => (houtside (a := 0x8000#16) ?_ hkv ?_).trans (hc k v hkv),
    fun k v hkv => (houtside (a := 0xC000#16) ?_ hkv ?_).trans (hb k v hkv),
    fun k v hkv => (houtside (a := 0xE000#16) ?_ hkv ?_).trans (hk k v hkv), fun k hlt => ?cartridge⟩
  case cartridge =>
    have haddr : (0xA000#16 + BitVec.ofNat 16 k).toNat = 0xA000 + k := toNat_add_ofNat (a := 0xA000#16) (by simp; omega)
    have hrom := region_cartridgeWindow_eq_rom_iff (cfg := coldConfig q e)
      (a := 0xA000#16 + BitVec.ofNat 16 k) (by omega) (by omega)
    rw [haddr] at hrom
    refine ⟨fun v htype hkv => ?_, fun huncovered hregion => ?_⟩
    · rw [← cartridgeImage_getElem? hlt] at hkv
      obtain ⟨hcovered, -⟩ := List.getElem?_eq_some_iff.mp hkv
      refine ⟨hrom.mpr ⟨htype, Nat.add_lt_add_left hcovered _⟩, ?_⟩
      rw [cell, haddr]
      exact initMemory_image (cfg := coldConfig q e) hchars hbasic hkernel htype hkv
    · obtain ⟨htype, hcovered⟩ := hrom.mp hregion
      rcases huncovered with hother | hnone
      · exact hother htype
      · rw [← cartridgeImage_getElem? hlt, List.getElem?_eq_none_iff] at hnone
        exact absurd (Nat.lt_of_add_lt_add_left hcovered) hnone.not_gt
  all_goals simp [hchars, hbasic, hkernel]

end Sys2Proof.Machine
end
